-- ==== Sys2Proof/Word.lean ====
section
/-! DEFINITION. The words of the DMX512 Transmission Engine (00_scope.md R12): unsigned values of a fixed width. -/

namespace Sys2Proof

/-- A byte: 8 bits, unsigned (R12). Every storage space of the block holds bytes (R61). -/
abbrev Byte := BitVec 8

/-- A 16-bit register or wire field (R7, R21 to R23). -/
abbrev Half := BitVec 16

/-- A 32-bit counter or wire field (R7, R26, R28, R29). -/
abbrev Quad := BitVec 32

/-- A tick number: 64 bits, one tick a microsecond (R8, R44). -/
abbrev Tick := BitVec 64

end Sys2Proof
end

