-- ==== Sys2Proof/Config.lean ====
section
/-! DEFINITION. What the spec fixes for every block (00_scope.md R7), the build-time parameters it leaves open
(R8), and the free values: what the spec does not state, as constants without a body. -/

namespace Sys2Proof

/-- A number that is at least 1, held as its predecessor, so that no value of the type is 0.
R8 asks it of BIT_US, STOP_BITS and TX_FIFO_DEPTH ("integer ≥ 1"). -/
structure Pos where
  pred : Nat
deriving DecidableEq, Repr, Inhabited

/-- The number itself. -/
def Pos.val (p : Pos) : Nat := p.pred + 1

/-- The positive number `n`, for `n ≥ 1`. -/
def Pos.of (n : Nat) : Pos := ⟨n - 1⟩

/-- The build-time parameters of R8. No operation reads or writes them (R27); the model takes them as an argument,
in the state's `params` field (log 3), and every statement holds for all of them. -/
structure Params where
  /-- `BIT_US`: ticks per bit on the line (R8, D5). -/
  bitUs : Pos
  /-- `STOP_BITS` (R8, D5). -/
  stopBits : Pos
  /-- `TX_FIFO_DEPTH`, OPEN (R8, D7). -/
  txFifoDepth : Pos
  /-- `HAS_SYSTEM_RESET` (R3, R8, D25). -/
  hasSystemReset : Bool
  /-- `RESET_MAGIC`, OPEN; used only when `HAS_SYSTEM_RESET` is true (R8, R97, D25). -/
  resetMagic : Quad
deriving DecidableEq, Repr

/-- `SLOT_BITS = 1 + 8 + STOP_BITS` (R8, R184). -/
def Params.slotBits (p : Params) : Nat := 1 + 8 + p.stopBits.val

/-- `SLOT_US = SLOT_BITS * BIT_US` (R8, R185). -/
def Params.slotUs (p : Params) : Nat := p.slotBits * p.bitUs.val

/-- `TX_FIFO_DEPTH` as a number. -/
def Params.depth (p : Params) : Nat := p.txFifoDepth.val

namespace Config

/-- `UNIVERSE_SIZE` (R7). -/
def universeSize : Nat := 512
/-- `FRAME_LEN`: start code and 512 channels (R7). -/
def frameLen : Nat := 513
/-- The size of `RXBUF`: `4 + RX_MAX_PAYLOAD + 1` (R43). -/
def rxbufSize : Nat := 1029
/-- `START_CODE` (R7, K13). -/
def startCode : Byte := 0x00#8
/-- `RX_MAX_PAYLOAD = MAX_PAYLOAD` (R7, R8, D19). -/
def rxMaxPayload : Nat := 1024
/-- `MAGIC_CMD`, the first byte of a command packet (R7, R86). -/
def magicCmd : Byte := 0xAA#8
/-- `MAGIC_RESP`, the first byte of a response packet (R7, R87). -/
def magicResp : Byte := 0xBB#8
/-- `REFRESH_MIN` and `REFRESH_MAX` in Hz (R7). -/
def refreshMin : Nat := 1
def refreshMax : Nat := 44
/-- `BREAK_MIN` and `BREAK_MAX` in µs (R7). -/
def breakMin : Nat := 88
def breakMax : Nat := 1000
/-- `MAB_MIN` and `MAB_MAX` in µs (R7). -/
def mabMin : Nat := 8
def mabMax : Nat := 100
/-- `REFRESH_DEFAULT`, `BREAK_DEFAULT`, `MAB_DEFAULT` (R7). -/
def refreshDefault : Half := 44
def breakDefault : Half := 150
def mabDefault : Half := 12

/-- The parameters of `State.reset`: the spec's defaults of R8, and for its two OPEN parameters the values of its worked
examples, a depth of 16 (R8, 95_test_vectors.md) and the guard 0x12345678 (95_test_vectors.md P5), which nothing reads
while `HAS_SYSTEM_RESET` is false. DESIGN CHOICE, log 3: no statement rests on these values. -/
def resetParams : Params :=
  { bitUs := Pos.of 4, stopBits := Pos.of 2, txFifoDepth := Pos.of 16, hasSystemReset := false,
    resetMagic := 0x12345678#32 }

/-- Free value: what `NOW_US` holds after tick `2^64 − 1`. R44 says "No rule wraps it" and R10 gives no value that its 64
bits can hold. Log 4. -/
opaque nowAfterLast : Tick

/-- Free value: `t − since` when `since` is a later tick than `t`. R12's values are non-negative, so R155 and R161 state no
result there. Log 5. -/
opaque elapsedBackwards : Nat → Nat → Nat

end Config

/-- The errors of the codec check (40_framing.md R128). -/
inductive CodecError where
  | lengthError
  | magicError
  | checksumError
deriving DecidableEq, Repr, Inhabited

/-- Free value: the error the codec check reports for a packet shorter than its declared length. R128 leaves it open and
K7 allows "any `DecodeError`", but no payload. Log 12. -/
opaque Config.shortPacketError : List Byte → CodecError

end Sys2Proof
end

