-- ==== Sys2Proof/Syntax.lean ====
section
/-! DEFINITION. The operations of the command port (30_encoding.md R91): one constructor per row of the opcode table,
with its operands assembled (R92, R93, R96, R97). -/

namespace Sys2Proof

/-- The payload of SET_CHANNELS (R92). -/
inductive ChannelsOperand where
  /-- Fewer than 2 bytes: there is no `start` (R135 answers INVALID_LENGTH). -/
  | short (payload : List Byte)
  /-- `[start:2 LE][values:count]`. -/
  | run (start : Half) (values : List Byte)
deriving DecidableEq, Repr

/-- The payload of SET_TIMING (R93). -/
inductive TimingOperand where
  /-- Not exactly 6 bytes (R141 answers INVALID_LENGTH). -/
  | badLength (payload : List Byte)
  /-- `[refresh_hz:2 LE][break_us:2 LE][mab_us:2 LE]`. -/
  | fields (refreshHz breakUs mabUs : Half)
deriving DecidableEq, Repr

/-- The payload of SYSTEM_RESET (R97). -/
inductive GuardOperand where
  /-- Not exactly 4 bytes (R139 answers INVALID_LENGTH where the option is present). -/
  | badLength (payload : List Byte)
  /-- `[magic:4 LE]`. -/
  | guard (magic : Quad)
deriving DecidableEq, Repr

/-- The operations (R91). `ignored` is the payload of an operation without operands, of any accepted length (R96). -/
inductive Instr where
  /-- SET_CHANNELS, code 0x01 (R135). -/
  | setChannels (op : ChannelsOperand)
  /-- GET_STATUS, code 0x02 (R136). -/
  | getStatus (ignored : List Byte)
  /-- ENABLE, code 0x03 (R133). -/
  | enable (ignored : List Byte)
  /-- DISABLE, code 0x04 (R134). -/
  | disable (ignored : List Byte)
  /-- BLACKOUT, code 0x05 (R137). -/
  | blackout (ignored : List Byte)
  /-- SET_TIMING, code 0x06 (R141). -/
  | setTiming (op : TimingOperand)
  /-- GET_TIMING, code 0x07 (R142). -/
  | getTiming (ignored : List Byte)
  /-- SYSTEM_RESET, code 0x08 (R139). Its meaning tests HAS_SYSTEM_RESET, as R139's pseudocode does (log 10). -/
  | systemReset (op : GuardOperand)
  /-- Every other code: 0x00 and 0x09..0xFF (R99, R132). -/
  | reserved (code : Byte) (ignored : List Byte)
deriving DecidableEq, Repr

end Sys2Proof
end

