-- ==== Sys2Proof/WellFormed.lean ====
section
/-! DEFINITION. The well-formed operations: those some accepted command packet encodes (30_encoding.md R89, R91 to R97). -/

namespace Sys2Proof

/-- A payload the receiver accepts: at most `RX_MAX_PAYLOAD` bytes (R89). -/
def payloadOk (p : List Byte) : Bool := p.length ≤ Config.rxMaxPayload

/-- R92: a short payload has no `start`; a run counts its two `start` bytes toward the payload's length. -/
def ChannelsOperand.wf : ChannelsOperand → Bool
  | .short p => p.length < 2
  | .run _ values => 2 + values.length ≤ Config.rxMaxPayload

/-- R93: the fields take exactly 6 bytes. -/
def TimingOperand.wf : TimingOperand → Bool
  | .badLength p => p.length ≠ 6 && payloadOk p
  | .fields _ _ _ => true

/-- R97: the guard takes exactly 4 bytes. -/
def GuardOperand.wf : GuardOperand → Bool
  | .badLength p => p.length ≠ 4 && payloadOk p
  | .guard _ => true

/-- R99: the codes that select no operation. -/
def reservedCode (c : Byte) : Bool := c == 0x00#8 || 9 ≤ c.toNat

/-- An operation some accepted command packet encodes. -/
def Instr.wf : Instr → Bool
  | .setChannels op => op.wf
  | .getStatus p => payloadOk p
  | .enable p => payloadOk p
  | .disable p => payloadOk p
  | .blackout p => payloadOk p
  | .setTiming op => op.wf
  | .getTiming p => payloadOk p
  | .systemReset op => op.wf
  | .reserved c p => reservedCode c && payloadOk p

end Sys2Proof
end

