-- ==== Sys2Proof/Decode.lean ====
section
/-! DEFINITION. From bytes to operations and back (30_encoding.md R86 to R97, 40_framing.md R116, R128): byte order,
checksum, the decoder, the encoder, the codec check, and the opcode table's words. -/

namespace Sys2Proof

/-! ## Byte order (00_scope.md R13, 20_memory.md R64) -/

/-- `LE16(b0, b1)`: `b0` comes first on the wire. -/
def le16 (b0 b1 : Byte) : Half := b1 ++ b0

/-- `LE32(b0, b1, b2, b3)`. -/
def le32 (b0 b1 b2 b3 : Byte) : Quad := b3 ++ b2 ++ b1 ++ b0

/-- `bytesLE16(v) = [v[7:0], v[15:8]]`. -/
def bytesLE16 (v : Half) : List Byte := [v.extractLsb' 0 8, v.extractLsb' 8 8]

/-- `bytesLE32(v)`, least significant byte first. -/
def bytesLE32 (v : Quad) : List Byte :=
  [v.extractLsb' 0 8, v.extractLsb' 8 8, v.extractLsb' 16 8, v.extractLsb' 24 8]

/-- `xorsum(bytes)`: the XOR of all the bytes, 0x00 for none (R116). -/
def xorsum (bytes : List Byte) : Byte := bytes.foldl (· ^^^ ·) 0x00#8

/-! ## Decoding -/

/-- R92. -/
def channelsOperand : List Byte → ChannelsOperand
  | b0 :: b1 :: values => .run (le16 b0 b1) values
  | p => .short p

/-- R93. -/
def timingOperand : List Byte → TimingOperand
  | [r0, r1, b0, b1, m0, m1] => .fields (le16 r0 r1) (le16 b0 b1) (le16 m0 m1)
  | p => .badLength p

/-- R97. -/
def guardOperand : List Byte → GuardOperand
  | [b0, b1, b2, b3] => .guard (le32 b0 b1 b2 b3)
  | p => .badLength p

/-- The operation that `dispatch` selects for a command code and a payload (R91, R131): total, reserved codes included. -/
def decodeOp (cmd : Byte) (p : List Byte) : Instr :=
  match cmd with
  | 0x01#8 => .setChannels (channelsOperand p)
  | 0x02#8 => .getStatus p
  | 0x03#8 => .enable p
  | 0x04#8 => .disable p
  | 0x05#8 => .blackout p
  | 0x06#8 => .setTiming (timingOperand p)
  | 0x07#8 => .getTiming p
  | 0x08#8 => .systemReset (guardOperand p)
  | c => .reserved c p

/-- Why a byte string holds no command packet (R101, R122, R123). -/
inductive DecodeError where
  /-- Fewer than four bytes. -/
  | noHeader
  /-- The first byte is not 0xAA. -/
  | badMagic (b : Byte)
  /-- The declared payload is longer than RX_MAX_PAYLOAD. -/
  | overLength (len : Nat)
  /-- The bytes end before the checksum. -/
  | truncated
  /-- The checksum byte is not the XOR of the bytes before it. -/
  | badChecksum
deriving DecidableEq, Repr

/-- The first command packet of a byte string, and the bytes after it (R86, R88, R89, R90). -/
def decode : List Byte → Except DecodeError (Instr × List Byte)
  | magic :: cmd :: lo :: hi :: rest =>
    if magic ≠ Config.magicCmd then .error (.badMagic magic)
    else if Config.rxMaxPayload < (le16 lo hi).toNat then .error (.overLength (le16 lo hi).toNat)
    else
      match rest.drop (le16 lo hi).toNat with
      | [] => .error .truncated
      | c :: tail =>
        if c = xorsum ([magic, cmd, lo, hi] ++ rest.take (le16 lo hi).toNat) then
          .ok (decodeOp cmd (rest.take (le16 lo hi).toNat), tail)
        else .error .badChecksum
  | _ => .error .noHeader

/-! ## Encoding -/

def ChannelsOperand.payload : ChannelsOperand → List Byte
  | .short p => p
  | .run start values => bytesLE16 start ++ values

def TimingOperand.payload : TimingOperand → List Byte
  | .badLength p => p
  | .fields r b m => bytesLE16 r ++ bytesLE16 b ++ bytesLE16 m

def GuardOperand.payload : GuardOperand → List Byte
  | .badLength p => p
  | .guard m => bytesLE32 m

/-- The command-type code (R91). -/
def Instr.code : Instr → Byte
  | .setChannels _ => 0x01#8
  | .getStatus _ => 0x02#8
  | .enable _ => 0x03#8
  | .disable _ => 0x04#8
  | .blackout _ => 0x05#8
  | .setTiming _ => 0x06#8
  | .getTiming _ => 0x07#8
  | .systemReset _ => 0x08#8
  | .reserved c _ => c

/-- The payload bytes (R92 to R97). -/
def Instr.payload : Instr → List Byte
  | .setChannels op => op.payload
  | .getStatus p => p
  | .enable p => p
  | .disable p => p
  | .blackout p => p
  | .setTiming op => op.payload
  | .getTiming p => p
  | .systemReset op => op.payload
  | .reserved _ p => p

/-- A framed packet: `[magic, code] ++ bytesLE16(len(payload)) ++ payload`, then its checksum (R86, R87, R88). -/
def framed (magic code : Byte) (payload : List Byte) : List Byte :=
  let body := [magic, code] ++ bytesLE16 (BitVec.ofNat 16 payload.length) ++ payload
  body ++ [xorsum body]

/-- The command packet of an operation (R86, R104). -/
def encode (i : Instr) : List Byte := framed Config.magicCmd i.code i.payload

/-! ## The codec check on a delimited packet -/

/-- `decode_and_validate(p, expected_magic)` (R128). Where the declared length exceeds the packet's, the error is a free
value (log 12). -/
def codecCheck (p : List Byte) (expectedMagic : Byte) : Except CodecError (Byte × List Byte) :=
  match p with
  | magic :: code :: lo :: hi :: rest =>
    if rest = [] then .error .lengthError
    else if magic ≠ expectedMagic then .error .magicError
    else if p.getLast? ≠ some (xorsum p.dropLast) then .error .checksumError
    else if rest.length < (le16 lo hi).toNat + 1 then .error (Config.shortPacketError p)
    else .ok (code, rest.take (le16 lo hi).toNat)
  | _ => .error .lengthError

/-! ## The words of the opcode table (R108)

A row gives the 4-byte header. Byte k of the packet is bits 8k+7..8k of the word; a bit the row does not give is 0. The
checksum is framing, not an operand: where the row gives it no bits it is the one the packet needs (log 11). -/

/-- Byte `k` of a table word of `nbits` bits. -/
def tableByte (nbits w k : Nat) : Byte := BitVec.ofNat 8 (w % 2 ^ nbits / 2 ^ (8 * k))

/-- The declared payload length of a table word. -/
def tableLen (nbits w : Nat) : Nat := (le16 (tableByte nbits w 2) (tableByte nbits w 3)).toNat

/-- The packet of a table word but for its checksum. A length field above `RX_MAX_PAYLOAD` forms no packet (R89), so no
more than that many payload bytes are laid out. -/
def tableBody (nbits w : Nat) : List Byte :=
  (List.range (4 + min (tableLen nbits w) Config.rxMaxPayload)).map (tableByte nbits w)

/-- The checksum byte of a table word's packet. -/
def tableChecksum (nbits w : Nat) : Byte :=
  if 8 * (4 + tableLen nbits w) < nbits then tableByte nbits w (4 + tableLen nbits w)
  else xorsum (tableBody nbits w)

/-- The instruction the decoder reads from a table word. -/
def decodeTableWord (nbits w : Nat) : Option Instr :=
  match decode (tableBody nbits w ++ [tableChecksum nbits w]) with
  | .ok (i, _) => some i
  | .error _ => none

end Sys2Proof
end

