-- ==== Sys2Proof/Machine/State.lean ====
section
/-! DEFINITION. The state of the block (10_state.md), its reset value (R50), and the reasons a step can stop. -/

namespace Sys2Proof.Machine

/-- The sequencer's states (R32). -/
inductive EState where
  | idle
  /-- BREAK: the line is at space. -/
  | brk
  /-- MAB, mark after break. -/
  | mab
  | data
deriving DecidableEq, Repr

/-- The receiver's states (R42). -/
inductive RState where
  | idle
  | cmd
  | lenLo
  | lenHi
  | data
  | checksum
deriving DecidableEq, Repr

/-- The status codes of a response (30_encoding.md R98). -/
inductive Status where
  | ok
  /-- Defined and never emitted (R100). -/
  | invalidMagic
  | invalidChecksum
  | invalidCmd
  | invalidLength
  | error
deriving DecidableEq, Repr

/-- The indexed storage spaces (20_memory.md R61). -/
inductive Space where
  | univ
  | frame
  | rxbuf
deriving DecidableEq, Repr

/-- The contents of an indexed storage space: the bytes that are not 0x00, by strictly rising index. An unlisted index
reads as 0x00, its value at reset (R50; log 13). -/
abbrev Memory := List Host.Cell

/-- The input ports in one tick (R17): `RST`, and the byte of `rx_byte` when `rx_valid` is 1. -/
structure PortInput where
  rst : Bool
  rx : Option Byte
deriving DecidableEq, Repr

/-- The state of the block. A field's comment names it as the spec does. -/
structure State where
  /-- The build-time parameters (R8): the model's own field, which no step writes (log 3). -/
  params : Params
  /-- `REFRESH_HZ` (R21). -/
  refreshHz : Half
  /-- `BREAK_US` (R22). -/
  breakUs : Half
  /-- `MAB_US` (R23). -/
  mabUs : Half
  /-- `ENABLED` (R25). -/
  enabled : Bool
  /-- `FRAME_COUNT` (R26). -/
  frameCount : Quad
  /-- `FPS_X100` (R28). -/
  fpsX100 : Quad
  /-- `ERROR_COUNT` (R29). -/
  errorCount : Quad
  /-- `UNIV[0..511]` (R30). -/
  univ : Memory
  /-- `FRAME[0..512]` (R31). -/
  frame : Memory
  /-- `ESTATE` (R32). -/
  estate : EState
  /-- `PHASE_CNT` (R33). -/
  phaseCnt : Half
  /-- `LAT_BREAK` (R34). -/
  latBreak : Half
  /-- `LAT_MAB` (R34). -/
  latMab : Half
  /-- `CURSOR` (R35). -/
  cursor : BitVec 10
  /-- `LAST_START` (R36). -/
  lastStart : Tick
  /-- `LAST_START_VALID` (R36). -/
  lastStartValid : Bool
  /-- `LAST_COMPLETE` (R37). -/
  lastComplete : Tick
  /-- `WIN_START` (R38). -/
  winStart : Tick
  /-- `WIN_FRAMES` (R38). -/
  winFrames : Quad
  /-- `UNDERRUN` (R39). -/
  underrun : Bool
  /-- `FIFO`, oldest byte first (R40). -/
  fifo : List Byte
  /-- `SH_ACTIVE` (R41). -/
  shActive : Bool
  /-- `SH_BYTE` (R41). -/
  shByte : Byte
  /-- `SH_TICK` (R41): its width depends on a parameter, so it is held as a number (log 6). -/
  shTick : Nat
  /-- `RSTATE` (R42). -/
  rstate : RState
  /-- `RXBUF[0..1028]` (R43). -/
  rxbuf : Memory
  /-- `RXPOS` (R43). -/
  rxpos : BitVec 11
  /-- `RXLEN` (R43). -/
  rxlen : Half
  /-- `RXCNT` (R43). -/
  rxcnt : BitVec 11
  /-- `NOW_US`, the number of the tick about to run (R44). -/
  nowUs : Tick
  /-- `PENDING_RST` (R51). -/
  pendingRst : Bool
  /-- The input ports in the coming ticks, the next tick first; none listed: `RST` and `rx_valid` are 0. The model's own
  field (log 1). -/
  inputs : List PortInput
  /-- `LINE` in the last tick, true for 1 (mark). The model's own field (log 2). -/
  line : Bool
  /-- `resp_packet` where `resp_valid` was 1 in the last tick. The model's own field (log 2, log 15). -/
  resp : Option (List Byte)
deriving DecidableEq, Repr

/-- The machine stops with a fault. -/
inductive Fault where
  /-- An access to an index that its space does not have (R61, R63). Raised by the receiver's accesses to RXBUF. Safe: it
  takes an RXPOS or RXLEN no run reaches (R81), and the model stops where the spec gives nothing (log 8). -/
  | noSuchIndex (space : Space) (index : Nat)
deriving DecidableEq, Repr

/-- The machine refuses an instruction. -/
inductive Refusal where
  /-- Raised by the dispatch for an instruction without a meaning. Safe: the model stops. No arm of this model uses it. -/
  | notModelled (mnemonic : String)
deriving DecidableEq, Repr

/-- The reset state of a block with given parameters (R50). The model's own fields: no port inputs listed, the line at
mark, no response (log 1, log 2). -/
def State.resetWith (p : Params) : State where
  params := p
  refreshHz := Config.refreshDefault
  breakUs := Config.breakDefault
  mabUs := Config.mabDefault
  enabled := false
  frameCount := 0
  fpsX100 := 0
  errorCount := 0
  univ := []
  frame := []
  estate := .idle
  phaseCnt := 0
  latBreak := 0
  latMab := 0
  cursor := 0
  lastStart := 0
  lastStartValid := false
  lastComplete := 0
  winStart := 0
  winFrames := 0
  underrun := false
  fifo := []
  shActive := false
  shByte := 0x00#8
  shTick := 0
  rstate := .idle
  rxbuf := []
  rxpos := 0
  rxlen := 0
  rxcnt := 0
  nowUs := 0
  pendingRst := false
  inputs := []
  line := true
  resp := none

/-- The machine right after reset (R50, R216), with the parameters of `Config.resetParams` (log 3). -/
def State.reset : State := State.resetWith Config.resetParams

end Sys2Proof.Machine
end

