-- ==== Sys2Proof/Machine/Ops.lean ====
section
/-! DEFINITION. The operations every meaning and every phase is written over: the storage spaces, the response and the
error mechanism, reset, and the time base. -/

namespace Sys2Proof.Machine

/-- What the block answers in one phase. -/
abbrev Result := Host.Outcome State Fault Refusal

/-- Go on with `f` in the next state; a fault or a refusal stays. -/
def andThen (o : Result) (f : State → State) : Result :=
  match o with
  | .next s => .next (f s)
  | .fault r => .fault r
  | .refused r => .refused r

/-! ## Storage spaces (20_memory.md R61) -/

/-- The number of bytes of a space (R61). -/
def Space.size : Space → Nat
  | .univ => Config.universeSize
  | .frame => Config.frameLen
  | .rxbuf => Config.rxbufSize

/-- The byte at an index (R14); 0x00 where none is listed (R50, log 13). -/
def Memory.get : Memory → Nat → Byte
  | [], _ => 0x00#8
  | (b, v) :: m, a => if a = b then v else Memory.get m a

/-- `M[a] <- v` (R14), keeping the canonical form: indices strictly rising, no 0x00 listed. -/
def Memory.set : Memory → Nat → Byte → Memory
  | [], a, v => if v = 0x00#8 then [] else [(a, v)]
  | (b, w) :: m, a, v =>
    if a < b then (if v = 0x00#8 then (b, w) :: m else (a, v) :: (b, w) :: m)
    else if a = b then (if v = 0x00#8 then m else (a, v) :: m)
    else (b, w) :: Memory.set m a v

/-- `M[a + k] <- values[k]` for every `k`, in order (R68). -/
def Memory.setRun (m : Memory) (a : Nat) : List Byte → Memory
  | [] => m
  | v :: values => Memory.setRun (Memory.set m a v) (a + 1) values

/-- `M[a .. a+n−1]` as a list. -/
def Memory.slice (m : Memory) (a n : Nat) : List Byte := (List.range n).map fun k => Memory.get m (a + k)

/-- Every entry of indices `0 .. n−1`, one index higher. -/
def Memory.shiftUp (m : Memory) (n : Nat) : Memory := (m.filter fun c => c.1 < n).map fun c => (c.1 + 1, c.2)

/-- The indices are strictly rising from `lo` on. -/
def Memory.risingFrom : Nat → Memory → Bool
  | _, [] => true
  | lo, (a, _) :: m => lo ≤ a && Memory.risingFrom (a + 1) m

/-- The canonical form: indices strictly rising, and no entry equal to what an unlisted index reads as. -/
def Memory.wf (m : Memory) : Bool := Memory.risingFrom 0 m && m.all fun c => c.2 ≠ 0x00#8

/-- Every listed index exists in a space of `n` bytes. -/
def Memory.within (n : Nat) (m : Memory) : Bool := m.all fun c => c.1 < n

/-! ## Responses and errors -/

/-- The status codes (30_encoding.md R98). -/
def Status.code : Status → Byte
  | .ok => 0x00#8
  | .invalidMagic => 0x01#8
  | .invalidChecksum => 0x02#8
  | .invalidCmd => 0x03#8
  | .invalidLength => 0x04#8
  | .error => 0xFF#8

/-- A response packet (30_encoding.md R87, 40_framing.md R125). -/
def responsePacket (st : Status) (payload : List Byte) : List Byte := framed Config.magicResp st.code payload

/-- `respond(status, payload)`: the packet is on `resp_packet` in this tick (R125, R20). -/
def State.respond (s : State) (st : Status) (payload : List Byte) : State :=
  { s with resp := some (responsePacket st payload) }

/-- `raise STATUS`: the error response with an empty payload, and no other state change (00_scope.md R14). It is the
block's only error mechanism (60_exceptions.md R196): nothing is saved and nothing is redirected. -/
def State.raise (s : State) (st : Status) : State := s.respond st []

/-- The return after any complete or abandoned packet: the receiver waits for a magic byte again (R122, R126, R202). -/
def State.toReceiverIdle (s : State) : State := { s with rxpos := 0, rstate := .idle }

/-- A reset tick (70_reset_and_hazards.md R216): every element at its value of R50, `NOW_US` included, the line at mark,
no response. The parameters stay, and so do the port inputs of the ticks to come. -/
def State.applyReset (s : State) : State := { State.resetWith s.params with inputs := s.inputs }

/-! ## Time -/

/-- `NOW_US <- t + 1` at the end of a tick (R10). After tick `2^64 − 1` the register holds a free value (R44; log 4). -/
def nextTick (t : Tick) : Tick := if t = BitVec.allOnes 64 then Config.nowAfterLast else t + 1

/-- `t − since` in µs (R155, R161). Where `since` is later than `t` the spec states no result: a free value (log 5). -/
def elapsed (t since : Tick) : Nat :=
  if since.toNat ≤ t.toNat then t.toNat - since.toNat else Config.elapsedBackwards t.toNat since.toNat

end Sys2Proof.Machine
end

