-- ==== Sys2Proof/Machine/Operands.lean ====
section
/-! DEFINITION. The operand tests of the operations and the payloads of the responses that carry one. -/

namespace Sys2Proof.Machine

/-- R135: `start + count ≤ 512`, as an unbounded sum (R102). -/
def runInRange (start : Half) (values : List Byte) : Bool :=
  start.toNat + values.length ≤ Config.universeSize

/-- `field_ok(v, lo, hi)` (R138): 0 means "leave unchanged". -/
def fieldOk (v : Half) (lo hi : Nat) : Bool := v == 0 || (lo ≤ v.toNat && v.toNat ≤ hi)

/-- The three range tests of SET_TIMING (R138, R141). -/
def timingOk (r b m : Half) : Bool :=
  fieldOk r Config.refreshMin Config.refreshMax && fieldOk b Config.breakMin Config.breakMax &&
    fieldOk m Config.mabMin Config.mabMax

/-- A delta update: 0 leaves the register unchanged (R141). -/
def deltaUpdate (field register : Half) : Half := if field = 0 then register else field

/-- The payload of a GET_STATUS response (R95). -/
def statusPayload (s : State) : List Byte :=
  [if s.enabled then 0x01#8 else 0x00#8] ++ bytesLE32 s.frameCount ++ bytesLE32 s.fpsX100

/-- The payload of a GET_TIMING response (R94). -/
def timingPayload (s : State) : List Byte :=
  bytesLE16 s.refreshHz ++ bytesLE16 s.breakUs ++ bytesLE16 s.mabUs

end Sys2Proof.Machine
end

