-- ==== Sys2Proof/Machine/EngineControl.lean ====
section
/-! DEFINITION. ENABLE, DISABLE and GET_STATUS (41_commands.md R133, R134, R136). -/

namespace Sys2Proof.Machine

/-- ENABLE (R133): the counters of R26, R28 and R38 start over; `ERROR_COUNT`, `LAST_START` and a frame in flight are
left alone. -/
def execEnable (_ignored : List Byte) (s : State) : Result :=
  .next ({ s with
    enabled := true, frameCount := 0, fpsX100 := 0, winFrames := 0, winStart := s.nowUs }.respond .ok [])

/-- DISABLE (R134). -/
def execDisable (_ignored : List Byte) (s : State) : Result :=
  .next ({ s with enabled := false }.respond .ok [])

/-- GET_STATUS (R136): the values at phase 1 of the tick. -/
def execGetStatus (_ignored : List Byte) (s : State) : Result :=
  .next (s.respond .ok (statusPayload s))

end Sys2Proof.Machine
end

