-- ==== Sys2Proof/Machine/System.lean ====
section
/-! DEFINITION. SYSTEM_RESET and the reserved codes (41_commands.md R139, R132). -/

namespace Sys2Proof.Machine

/-- SYSTEM_RESET (R139): the option, then the length, then the guard. The reset itself comes in phase 0 of the next tick
(`State.applyReset`). -/
def execSystemReset (op : GuardOperand) (s : State) : Result :=
  if s.params.hasSystemReset then
    match op with
    | .badLength _ => .next (s.raise .invalidLength)
    | .guard magic =>
      if magic = s.params.resetMagic then .next { s.respond .ok [] with pendingRst := true }
      else .next (s.raise .error)
  else .next (s.raise .invalidCmd)

/-- A reserved code (R132, R99). -/
def execReserved (_code : Byte) (_ignored : List Byte) (s : State) : Result :=
  .next (s.raise .invalidCmd)

end Sys2Proof.Machine
end

