-- ==== Sys2Proof/Machine/Timing.lean ====
section
/-! DEFINITION. SET_TIMING and GET_TIMING (41_commands.md R141, R142). -/

namespace Sys2Proof.Machine

/-- SET_TIMING (R141): the length, then the three ranges, then all three delta updates at once. -/
def execSetTiming (op : TimingOperand) (s : State) : Result :=
  match op with
  | .badLength _ => .next (s.raise .invalidLength)
  | .fields r b m =>
    if timingOk r b m then
      .next ({ s with
        refreshHz := deltaUpdate r s.refreshHz, breakUs := deltaUpdate b s.breakUs,
        mabUs := deltaUpdate m s.mabUs }.respond .ok [])
    else .next (s.raise .error)

/-- GET_TIMING (R142): the configured values, not the latched ones. -/
def execGetTiming (_ignored : List Byte) (s : State) : Result :=
  .next (s.respond .ok (timingPayload s))

end Sys2Proof.Machine
end

