-- ==== Sys2Proof/Machine/Universe.lean ====
section
/-! DEFINITION. SET_CHANNELS and BLACKOUT (41_commands.md R135, R137). -/

namespace Sys2Proof.Machine

/-- SET_CHANNELS (R135): the length, then the range, then the run of bytes. -/
def execSetChannels (op : ChannelsOperand) (s : State) : Result :=
  match op with
  | .short _ => .next (s.raise .invalidLength)
  | .run start values =>
    if runInRange start values then
      .next ({ s with univ := Memory.setRun s.univ start.toNat values }.respond .ok [])
    else .next (s.raise .error)

/-- BLACKOUT (R137): every channel 0x00. -/
def execBlackout (_ignored : List Byte) (s : State) : Result :=
  .next ({ s with
    univ := Memory.setRun s.univ 0 (List.replicate Config.universeSize 0x00#8) }.respond .ok [])

end Sys2Proof.Machine
end

