-- ==== Sys2Proof/Machine/Dispatch.lean ====
section
/-! DEFINITION. `dispatch` (41_commands.md R131): one arm per operation, each a direct call of its meaning, in phase 1 of
the tick `NOW_US`. -/

namespace Sys2Proof.Machine

def exec (i : Instr) (s : State) : Host.Outcome State Fault Refusal :=
  match i with
  | .setChannels op => Sys2Proof.Machine.execSetChannels op s
  | .getStatus ignored => Sys2Proof.Machine.execGetStatus ignored s
  | .enable ignored => Sys2Proof.Machine.execEnable ignored s
  | .disable ignored => Sys2Proof.Machine.execDisable ignored s
  | .blackout ignored => Sys2Proof.Machine.execBlackout ignored s
  | .setTiming op => Sys2Proof.Machine.execSetTiming op s
  | .getTiming ignored => Sys2Proof.Machine.execGetTiming ignored s
  | .systemReset op => Sys2Proof.Machine.execSystemReset op s
  | .reserved code ignored => Sys2Proof.Machine.execReserved code ignored s

end Sys2Proof.Machine
end

