-- ==== Sys2Proof/Machine/Receiver.lean ====
section
/-! DEFINITION. The byte-stream receiver (40_framing.md R118 to R127): phase 1 of a tick. -/

namespace Sys2Proof.Machine

/-- `RXBUF[RXPOS] <- b; RXPOS <- RXPOS + 1`, at an index that exists. -/
def State.storeRx (s : State) (b : Byte) : State :=
  { s with rxbuf := Memory.set s.rxbuf s.rxpos.toNat b, rxpos := s.rxpos + 1 }

/-- The header bytes have fixed places (R120): `RXBUF[k] <- b; RXPOS <- k + 1`. -/
def State.storeHeader (s : State) (k : Nat) (b : Byte) : State :=
  { s with rxbuf := Memory.set s.rxbuf k b, rxpos := BitVec.ofNat 11 (k + 1) }

/-- `RXBUF[4 .. 3+RXLEN]`, the payload of a complete packet (R124). -/
def State.rxPayload (s : State) : List Byte := Memory.slice s.rxbuf 4 s.rxlen.toNat

/-- The operation a complete packet selects (R124, R131). -/
def State.rxInstr (s : State) : Instr := decodeOp (Memory.get s.rxbuf 1) s.rxPayload

/-- The `R_LEN_HI` arm of R120: the length bound (R122), the zero length (R127), or the payload. -/
def receiveLenHi (b : Byte) (s : State) : State :=
  let len := le16 (Memory.get s.rxbuf 2) b
  let s := { s.storeHeader 3 b with rxlen := len }
  if Config.rxMaxPayload < len.toNat then s.toReceiverIdle
  else if len = 0 then { s with rstate := .checksum }
  else { s with rxcnt := 0, rstate := .data }

/-- The `R_DATA` arm of R120, the payload byte's index existing. -/
def receiveData (b : Byte) (s : State) : State :=
  let s := { s.storeRx b with rxcnt := s.rxcnt + 1 }
  if s.rxcnt.toNat = s.rxlen.toNat then { s with rstate := .checksum } else s

/-- Validation and dispatch of a complete packet whose bytes are all stored (R123, R124). `b` is its last byte. -/
def validateAndDispatch (b : Byte) (s : State) : Result :=
  if b ≠ xorsum (Memory.slice s.rxbuf 0 (s.rxpos.toNat - 1)) then .next (s.raise .invalidChecksum)
  else if Config.rxbufSize < 4 + s.rxlen.toNat then .fault (.noSuchIndex .rxbuf (3 + s.rxlen.toNat))
  else exec s.rxInstr s

/-- `receiver_step(b, t)` (R120). -/
def receiverStep (b : Byte) (s : State) : Result :=
  match s.rstate with
  | .idle => .next (if b = Config.magicCmd then { s.storeHeader 0 b with rstate := .cmd } else s)
  | .cmd => .next { s.storeHeader 1 b with rstate := .lenLo }
  | .lenLo => .next { s.storeHeader 2 b with rstate := .lenHi }
  | .lenHi => .next (receiveLenHi b s)
  | .data =>
    if s.rxpos.toNat < Config.rxbufSize then .next (receiveData b s)
    else .fault (.noSuchIndex .rxbuf s.rxpos.toNat)
  | .checksum =>
    if s.rxpos.toNat < Config.rxbufSize then andThen (validateAndDispatch b (s.storeRx b)) State.toReceiverIdle
    else .fault (.noSuchIndex .rxbuf s.rxpos.toNat)

/-- Phase 1 (R10, R119): the byte presented in this tick, if there is one. -/
def commandPort (rx : Option Byte) (s : State) : Result :=
  match rx with
  | none => .next s
  | some b => receiverStep b s

end Sys2Proof.Machine
end

