-- ==== Sys2Proof/Machine/Flags.lean ====
section
/-! DEFINITION. The block's one-bit conditions. It has no condition codes (10_state.md R48); these are the tests its
agents make and the one flag that is computed, `UNDERRUN`. -/

namespace Sys2Proof.Machine

/-- `drained()`: transmit FIFO empty and shift register idle (43_serializer.md R181). -/
def drained (s : State) : Bool := s.fifo.isEmpty && !s.shActive

/-- The frame interval in µs, read from `REFRESH_HZ` in every tick (42_sequencer.md R155). -/
def intervalUs (s : State) : Nat := 1000000 / s.refreshHz.toNat

/-- `start_ok(t)` (R155), with `t` = `NOW_US`. -/
def startOk (s : State) : Bool :=
  s.enabled && drained s && (!s.lastStartValid || intervalUs s ≤ elapsed s.nowUs s.lastStart)

/-- `UNDERRUN` at a data push: set when the line has run dry in a tick after the entry tick (R159, R163). -/
def underrunAfter (entry : Bool) (s : State) : Bool := s.underrun || (!entry && drained s)

end Sys2Proof.Machine
end

