-- ==== Sys2Proof/Machine/Sequencer.lean ====
section
/-! DEFINITION. The engine sequencer (42_sequencer.md R151 to R163): phase 2 of a tick. `t` is `NOW_US` throughout. -/

namespace Sys2Proof.Machine

/-- `snapshot()` (R157): `FRAME = [START_CODE] ++ UNIV`. -/
def snapshot (univ : Memory) : Memory :=
  Memory.set (Memory.shiftUp univ Config.universeSize) 0 Config.startCode

/-- `frame_start(t)` (R156). -/
def frameStart (s : State) : State :=
  { s with
    frame := snapshot s.univ, latBreak := s.breakUs, latMab := s.mabUs, lastStart := s.nowUs,
    lastStartValid := true, phaseCnt := s.breakUs, estate := .brk }

/-- `fps_sample(t)` (R161). -/
def fpsSample (s : State) : State :=
  let elapsedMs := elapsed s.nowUs s.winStart / 1000
  if 1000 ≤ elapsedMs then
    { s with
      fpsX100 := BitVec.ofNat 32 (s.winFrames.toNat * 100000 / elapsedMs), winFrames := 0,
      winStart := s.nowUs }
  else s

/-- The last lines of R160: an underrun is counted once, at its frame's completion (R163), and the frame is over. -/
def frameEnd (s : State) : State :=
  { s with
    errorCount := if s.underrun then s.errorCount + 1 else s.errorCount, underrun := false, estate := .idle }

/-- `frame_complete(t)` (R160). -/
def frameComplete (s : State) : State :=
  frameEnd (fpsSample
    { s with frameCount := s.frameCount + 1, winFrames := s.winFrames + 1, lastComplete := s.nowUs })

/-- The `while` loop of R159: `CURSOR` and `FIFO` after it. Each turn moves `CURSOR` up, so `fuel` turns are enough once
`fuel` is `FRAME_LEN`. -/
def fillFifo (frame : Memory) (depth : Nat) : Nat → BitVec 10 → List Byte → BitVec 10 × List Byte
  | 0, cursor, fifo => (cursor, fifo)
  | fuel + 1, cursor, fifo =>
    if cursor.toNat < Config.frameLen ∧ fifo.length < depth then
      fillFifo frame depth fuel (cursor + 1) (fifo ++ [Memory.get frame cursor.toNat])
    else (cursor, fifo)

/-- `data_push(t, entry)` (R159). -/
def dataPush (entry : Bool) (s : State) : State :=
  let filled := fillFifo s.frame s.params.depth Config.frameLen s.cursor s.fifo
  let s := { s with underrun := underrunAfter entry s, cursor := filled.1, fifo := filled.2 }
  if s.cursor.toNat = Config.frameLen then frameComplete s else s

/-- `sequencer_step(t)` (R151, R152 to R154, R158). -/
def sequencerStep (s : State) : State :=
  match s.estate with
  | .idle => if startOk s then frameStart s else s
  | .brk =>
    if 1 < s.phaseCnt.toNat then { s with phaseCnt := s.phaseCnt - 1 }
    else { s with phaseCnt := s.latMab, estate := .mab }
  | .mab =>
    if 1 < s.phaseCnt.toNat then { s with phaseCnt := s.phaseCnt - 1 }
    else dataPush true { s with estate := .data, cursor := 0 }
  | .data => dataPush false s

end Sys2Proof.Machine
end

