-- ==== Sys2Proof/Machine/Serializer.lean ====
section
/-! DEFINITION. The frame serializer (43_serializer.md R180 to R188): phase 3 of a tick. -/

namespace Sys2Proof.Machine

/-- `slot_bit(b, i)` (R184): a start bit at space, eight data bits from the least significant, stop bits at mark. -/
def slotBit (b : Byte) (i : Nat) : Bool :=
  if i = 0 then false else if i ≤ 8 then b.getLsbD (i - 1) else true

/-- The load of R182: an idle shift register takes the oldest byte of the FIFO. -/
def loadSlot (s : State) : State :=
  if s.shActive then s
  else
    match s.fifo with
    | [] => s
    | b :: rest => { s with fifo := rest, shByte := b, shTick := 0, shActive := true }

/-- The shift of R182: one tick of the current slot on the line, or the idle mark (R183). -/
def shiftSlot (s : State) : State :=
  if s.shActive then
    { s with
      line := slotBit s.shByte (s.shTick / s.params.bitUs.val), shTick := s.shTick + 1,
      shActive := s.shTick + 1 ≠ s.params.slotUs }
  else { s with line := true }

/-- `serializer_step(t)` (R180); BREAK and MAB override the shifter (R187). -/
def serializerStep (s : State) : State :=
  match s.estate with
  | .brk => { s with line := false }
  | .mab => { s with line := true }
  | .idle => shiftSlot (loadSlot s)
  | .data => shiftSlot (loadSlot s)

end Sys2Proof.Machine
end

