-- ==== Sys2Proof/Machine/Tick.lean ====
section
/-! DEFINITION. One tick of the block (00_scope.md R10), and where a table word is placed so that the next tick runs it. -/

namespace Sys2Proof.Machine

/-- The input ports in this tick; idle where none are listed (log 1). -/
def State.portInput (s : State) : PortInput := s.inputs.headD ⟨false, none⟩

/-- The state the phases of a tick start from: this tick's port inputs are taken, and no response is out yet. -/
def State.beginTick (s : State) : State := { s with inputs := s.inputs.tail, resp := none }

/-- The last line of R10: `NOW_US <- t + 1`. -/
def State.endTick (s : State) : State := { s with nowUs := nextTick s.nowUs }

/-- Phases 2 and 3 and the end of a tick. -/
def State.finishTick (s : State) : State := (serializerStep (sequencerStep s)).endTick

/-- Phase 0's test (R10, R216). -/
def State.resetNow (s : State) : Bool := s.portInput.rst || s.pendingRst

/-- `tick(t)` (R10). -/
def tick (s : State) : Result :=
  if s.resetNow then .next s.beginTick.applyReset
  else andThen (commandPort s.portInput.rx s.beginTick) State.finishTick

/-- A table word as the packet whose last byte comes in the next tick (log 11). A header that forms no packet is placed
up to the byte at which the receiver gives it up: its first byte (R121) or its length's high byte (R122). -/
def State.placeTableWord (s : State) (nbits w : Nat) : State :=
  let body := tableBody nbits w
  let nextByte (b : Byte) : List PortInput := ⟨false, some b⟩ :: s.inputs.tail
  if tableByte nbits w 0 ≠ Config.magicCmd then
    { s with rstate := .idle, rxpos := 0, pendingRst := false, inputs := nextByte (tableByte nbits w 0) }
  else if Config.rxMaxPayload < tableLen nbits w then
    { s with
      rstate := .lenHi, rxpos := 3, rxbuf := Memory.setRun s.rxbuf 0 (body.take 3), pendingRst := false,
      inputs := nextByte (tableByte nbits w 3) }
  else
    { s with
      rstate := .checksum, rxpos := BitVec.ofNat 11 body.length,
      rxbuf := Memory.setRun s.rxbuf 0 body, rxlen := BitVec.ofNat 16 (tableLen nbits w),
      rxcnt := BitVec.ofNat 11 (tableLen nbits w), pendingRst := false,
      inputs := nextByte (tableChecksum nbits w) }

end Sys2Proof.Machine
end

