-- ==== Sys2Proof/Machine/Step.lean ====
section
/-! DEFINITION. The step: one tick of the block. -/

namespace Sys2Proof.Machine

/-- One step is one tick, all four phases of 00_scope.md R10 (log 9). -/
def step (s : State) : Host.Outcome State Fault Refusal := tick s

/-- `s` with the instruction of a table word complete but for its last byte, which the next tick presents (log 11). -/
def State.withFetchWord (s : State) (nbits w : Nat) : State := s.placeTableWord nbits w

end Sys2Proof.Machine
end

