-- ==== Sys2Proof/Machine/CommandProgram.lean ====
section
/-! DEFINITION. Command programs (30_encoding.md R104, R105): what the host presents on the byte port, line by line, and
the state with a program loaded. -/

namespace Sys2Proof.Machine

/-- What a line of a command program stands for (R104). -/
inductive LineBody where
  /-- An operation: `SET_CHANNELS …`, `GET_STATUS`, `ENABLE` and so on. -/
  | op (i : Instr)
  /-- `CMD code [, b0, b1, ...]`: any code, with its framing. -/
  | cmd (code : Byte) (payload : List Byte)
  /-- `RAW b0, b1, ...`: the bytes as given. -/
  | raw (bytes : List Byte)
  /-- `WAIT n`: no byte for `n` ticks. -/
  | wait (n : Nat)
deriving DecidableEq, Repr

/-- A line, with the tick of its `@t` if it has one (R104). -/
structure ProgramLine where
  start : Option Nat
  body : LineBody
deriving DecidableEq, Repr

/-- What the byte port carries, tick by tick. -/
def LineBody.ticks : LineBody → List (Option Byte)
  | .op i => (encode i).map some
  | .cmd code payload => (framed Config.magicCmd code payload).map some
  | .raw bytes => bytes.map some
  | .wait n => List.replicate n none

/-- The port inputs of a program from tick `now` on. Without `@t` a line follows the one before it in the next tick; an
`@t` that has passed cannot be kept, and the program is refused (log 16). -/
def schedule (now : Nat) : List ProgramLine → Option (List PortInput)
  | [] => some []
  | l :: ls =>
    let from_ := l.start.getD now
    if from_ < now then none
    else
      (schedule (from_ + l.body.ticks.length) ls).map fun rest =>
        (List.replicate (from_ - now) none ++ l.body.ticks).map (PortInput.mk false) ++ rest

/-- `s` with a program's bytes on its input ports, from the next tick on (log 11). -/
def State.load (s : State) (program : List ProgramLine) : Option State :=
  (schedule s.nowUs.toNat program).map fun inputs => { s with inputs := inputs }

/-! ## Pseudo-operations (R105): each is one packet -/

/-- `SET_CHANNEL ch, v`, `ch` 1-based (R62, K14). R105 has `ch` from 1 to 512. DESIGN CHOICE (log 17): outside that range
`ch` = 0 stands for the packet of `ch` = 1, and above it the start is `ch` − 1 modulo 2^16. -/
def opSetChannel (ch : Nat) (v : Byte) : Instr := .setChannels (.run (BitVec.ofNat 16 (ch - 1)) [v])

/-- `SET_REFRESH hz`. -/
def opSetRefresh (hz : Half) : Instr := .setTiming (.fields hz 0 0)

/-- `SET_BREAK us`. -/
def opSetBreak (us : Half) : Instr := .setTiming (.fields 0 us 0)

/-- `SET_MAB us`. -/
def opSetMab (us : Half) : Instr := .setTiming (.fields 0 0 us)

/-- `CLEAR start, n`. Where `n` zeros are more than a packet's length field counts, see log 17 (DESIGN CHOICE). -/
def opClear (start : Half) (n : Nat) : Instr := .setChannels (.run start (List.replicate n 0x00#8))

end Sys2Proof.Machine
end

