-- ==== Sys2Proof/Safety.lean ====
section
/-! DEFINITION. What counts as a legal state and a run without reset, in the terms the statements use. -/

namespace Sys2Proof.Machine

/-- The timing registers hold legal values (10_state.md R24). -/
abbrev TimingLegal (s : State) : Prop :=
  (Config.refreshMin ≤ s.refreshHz.toNat ∧ s.refreshHz.toNat ≤ Config.refreshMax) ∧
  (Config.breakMin ≤ s.breakUs.toNat ∧ s.breakUs.toNat ≤ Config.breakMax) ∧
  (Config.mabMin ≤ s.mabUs.toNat ∧ s.mabUs.toNat ≤ Config.mabMax)

/-- The storage spaces are canonical and within their sizes (20_memory.md R61), the frame's first byte is the start code
(R31), and the transmit FIFO is within its depth (R82). -/
abbrev SpacesLegal (s : State) : Prop :=
  (Memory.wf s.univ = true ∧ Memory.within Config.universeSize s.univ = true) ∧
  (Memory.wf s.frame = true ∧ Memory.within Config.frameLen s.frame = true ∧
    Memory.get s.frame 0 = Config.startCode) ∧
  (Memory.wf s.rxbuf = true ∧ Memory.within Config.rxbufSize s.rxbuf = true) ∧
  s.fifo.length ≤ s.params.depth

/-- The sequencer and the serializer: the phase counter counts the ticks left (R33), BREAK and MAB run with the line
drained (R187), the cursor is within the frame (R35), data still to push means a line that is not dry (R163), and the
shift register is within its slot (R41). -/
abbrev EngineLegal (s : State) : Prop :=
  (s.estate ≠ .idle →
    (Config.breakMin ≤ s.latBreak.toNat ∧ s.latBreak.toNat ≤ Config.breakMax) ∧
    (Config.mabMin ≤ s.latMab.toNat ∧ s.latMab.toNat ≤ Config.mabMax)) ∧
  (s.estate = .brk → 1 ≤ s.phaseCnt.toNat ∧ s.phaseCnt.toNat ≤ s.latBreak.toNat ∧ drained s = true) ∧
  (s.estate = .mab → 1 ≤ s.phaseCnt.toNat ∧ s.phaseCnt.toNat ≤ s.latMab.toNat ∧ drained s = true) ∧
  (s.estate = .data → s.cursor.toNat < Config.frameLen ∧ drained s = false) ∧
  s.cursor.toNat ≤ Config.frameLen ∧
  s.underrun = false ∧
  (s.shActive = true → s.shTick < s.params.slotUs)

/-- The receiver: what RXPOS, RXLEN and RXCNT count in each state (R43, R81, R120), and the header bytes stored so far. -/
abbrev ReceiverLegal (s : State) : Prop :=
  (s.rstate = .idle → s.rxpos.toNat = 0) ∧
  (s.rstate = .cmd → s.rxpos.toNat = 1) ∧
  (s.rstate = .lenLo → s.rxpos.toNat = 2) ∧
  (s.rstate = .lenHi → s.rxpos.toNat = 3) ∧
  (s.rstate = .data →
    s.rxpos.toNat = 4 + s.rxcnt.toNat ∧ s.rxcnt.toNat < s.rxlen.toNat ∧
      s.rxlen.toNat ≤ Config.rxMaxPayload) ∧
  (s.rstate = .checksum → s.rxpos.toNat = 4 + s.rxlen.toNat ∧ s.rxlen.toNat ≤ Config.rxMaxPayload) ∧
  (s.rstate ≠ .idle → Memory.get s.rxbuf 0 = Config.magicCmd) ∧
  (s.rstate = .data ∨ s.rstate = .checksum → s.rxlen = le16 (Memory.get s.rxbuf 2) (Memory.get s.rxbuf 3))

/-- `PENDING_RST` is 0 in a block without SYSTEM_RESET (R51). -/
abbrev PendingLegal (s : State) : Prop := s.pendingRst = true → s.params.hasSystemReset = true

/-- The invariant of the block: it holds at reset and after every tick. -/
abbrev State.Inv (s : State) : Prop :=
  TimingLegal s ∧ SpacesLegal s ∧ EngineLegal s ∧ ReceiverLegal s ∧ PendingLegal s

/-- No recorded tick lies ahead of the clock. It lasts as long as `NOW_US` does not pass `2^64 − 1` (R44; log 4). -/
abbrev ClockLegal (s : State) : Prop :=
  s.lastStart.toNat ≤ s.nowUs.toNat ∧ s.winStart.toNat ≤ s.nowUs.toNat

/-- `k` ticks of the block. -/
def runTicks (k : Nat) (s : State) : Result := Host.Core.run Sys2Proof.core k s

/-- None of the next `n` ticks is a reset tick (R216). -/
def noResetFor : Nat → State → Bool
  | 0, _ => true
  | n + 1, s =>
    !s.resetNow &&
      match step s with
      | .next t => noResetFor n t
      | .fault _ => true
      | .refused _ => true

/-- A frame starts in this tick (R155, R156): the sequencer, idle before it, is in BREAK after it. -/
def startsFrame (s t : State) : Prop := s.estate = .idle ∧ step s = .next t ∧ t.estate = .brk

/-- The receiver's answer to a list of bytes, one a tick (R119, R120), and nothing else happening in between. -/
def receiveAll : List Byte → State → Result
  | [], s => .next s
  | b :: bytes, s =>
    match receiverStep b s with
    | .next t => receiveAll bytes t
    | .fault r => .fault r
    | .refused r => .refused r

/-- Reading any byte of the three indexed spaces gives the same in both states (R61). -/
abbrev BytesUnchanged (s t : State) : Prop :=
  ∀ a, Memory.get t.univ a = Memory.get s.univ a ∧ Memory.get t.frame a = Memory.get s.frame a ∧
    Memory.get t.rxbuf a = Memory.get s.rxbuf a

/-- The instruction dispatched in this tick, if one is (R124): the byte presented completes a packet whose checksum is
right. -/
def dispatched (s : State) : Option Instr :=
  match s.portInput.rx with
  | none => none
  | some b =>
    if s.resetNow = false ∧ s.rstate = .checksum ∧
        b = xorsum (Memory.slice (s.storeRx b).rxbuf 0 ((s.storeRx b).rxpos.toNat - 1)) then
      some (s.storeRx b).rxInstr
    else none

/-- What the sequencer and the serializer keep of a frame in flight, in one view: nothing of it is an operation's to
write (R165 to R167, R201). -/
structure FrameView where
  params : Params
  frame : Memory
  estate : EState
  phaseCnt : Half
  latBreak : Half
  latMab : Half
  cursor : BitVec 10
  underrun : Bool
  fifo : List Byte
  shActive : Bool
  shByte : Byte
  shTick : Nat
deriving DecidableEq, Repr

/-- The frame in flight as a state holds it. -/
def State.frameView (s : State) : FrameView :=
  { params := s.params, frame := s.frame, estate := s.estate, phaseCnt := s.phaseCnt,
    latBreak := s.latBreak, latMab := s.latMab, cursor := s.cursor, underrun := s.underrun,
    fifo := s.fifo, shActive := s.shActive, shByte := s.shByte, shTick := s.shTick }

end Sys2Proof.Machine
end

