-- ==== Sys2Proof/Certificates/Slice0/Obligations.lean ====
section
/-! DEFINITION. The statements for the provers. Each formalises the rules of spec/ its docstring names; a frame is written
as "the next state with the written fields put back is the state before". -/

open Sys2Proof Sys2Proof.Machine

/-! ## Encoding -/

/-- R124, R131: where the stored bytes and the byte now presented decode to an instruction, the tick runs exactly that
instruction on the state with the last byte stored, then returns the receiver to R_IDLE (R126) and runs phases 2 and 3. -/
def Obligations.StepRunsDecodedInstruction : Prop :=
  ∀ (s : State) (b : Byte) (i : Instr),
    s.Inv → s.resetNow = false → s.portInput.rx = some b → s.rstate = .checksum →
    decode (Memory.slice s.rxbuf 0 (4 + s.rxlen.toNat) ++ [b]) = .ok (i, []) →
    i.wf = true ∧
      step s = andThen (exec i (s.beginTick.storeRx b)) fun t => t.toReceiverIdle.finishTick

/-- R106 and 95_test_vectors.md 2.3: packets written out byte by byte decode to the operations they stand for. -/
def Obligations.CanonicalPacketsDecode : Prop :=
  decode [0xAA#8, 0x03#8, 0x00#8, 0x00#8, 0xA9#8] = .ok (.enable [], []) ∧
  decode [0xAA#8, 0x04#8, 0x00#8, 0x00#8, 0xAE#8] = .ok (.disable [], []) ∧
  decode [0xAA#8, 0x02#8, 0x00#8, 0x00#8, 0xA8#8] = .ok (.getStatus [], []) ∧
  decode [0xAA#8, 0x05#8, 0x00#8, 0x00#8, 0xAF#8] = .ok (.blackout [], []) ∧
  decode [0xAA#8, 0x07#8, 0x00#8, 0x00#8, 0xAD#8] = .ok (.getTiming [], []) ∧
  decode [0xAA#8, 0x01#8, 0x04#8, 0x00#8, 0xFE#8, 0x01#8, 0x01#8, 0x02#8, 0x53#8] =
    .ok (.setChannels (.run 510#16 [0x01#8, 0x02#8]), []) ∧
  decode [0xAA#8, 0x06#8, 0x06#8, 0x00#8, 0x01#8, 0x00#8, 0xE8#8, 0x03#8, 0x64#8, 0x00#8, 0x24#8] =
    .ok (.setTiming (.fields 1#16 1000#16 100#16), []) ∧
  decode [0xAA#8, 0x08#8, 0x04#8, 0x00#8, 0x78#8, 0x56#8, 0x34#8, 0x12#8, 0xAE#8] =
    .ok (.systemReset (.guard 0x12345678#32), []) ∧
  decode [0xAA#8, 0xFF#8, 0x00#8, 0x00#8, 0x55#8] = .ok (.reserved 0xFF#8 [], [])

/-- R86 to R97: decoding the packet of any well-formed operation, whatever follows it, gives the operation and the rest:
every operand of every operation, the ignored payloads included. -/
def Obligations.DecodeInvertsEncode : Prop :=
  ∀ (i : Instr) (rest : List Byte), i.wf = true → decode (encode i ++ rest) = .ok (i, rest)

/-- R86, R89, R90: whatever decodes was a well-formed operation's packet, bit for bit; no two byte strings stand for one
operation. -/
def Obligations.DecodedBytesAreItsPacket : Prop :=
  ∀ (bytes rest : List Byte) (i : Instr),
    decode bytes = .ok (i, rest) → i.wf = true ∧ bytes = encode i ++ rest

/-- The model's own host interface (log 11), over R108's table words: a word that decodes is run by the very next step. -/
def Obligations.FetchedWordRuns : Prop :=
  ∀ (s : State) (nbits w : Nat) (i : Instr),
    Memory.wf s.rxbuf = true → decodeTableWord nbits w = some i →
    step (s.withFetchWord nbits w) =
      andThen (exec i ((s.withFetchWord nbits w).beginTick.storeRx (tableChecksum nbits w)))
        fun t => t.toReceiverIdle.finishTick

/-- R116: `xorsum` of no bytes is 0x00, it accumulates one byte at a time, it does not depend on the order, and a byte that
occurs twice cancels itself. -/
def Obligations.ChecksumAccumulates : Prop :=
  xorsum [] = 0x00#8 ∧
  (∀ (l : List Byte) (b : Byte), xorsum (l ++ [b]) = xorsum l ^^^ b) ∧
  (∀ l l' : List Byte, l.Perm l' → xorsum l = xorsum l') ∧
  (∀ (l : List Byte) (b : Byte), xorsum (b :: b :: l) = xorsum l) ∧
  xorsum [0xAA#8, 0x03#8, 0x00#8, 0x00#8] = 0xA9#8

/-- R128 with R86 and R87 (property T1 of 95_test_vectors.md): the codec check reads back the code and the payload of any
framed packet, command or response. -/
def Obligations.CodecRoundTrip : Prop :=
  ∀ (magic code : Byte) (payload : List Byte),
    payload.length ≤ 65535 → codecCheck (framed magic code payload) magic = .ok (code, payload)

/-- R117, R88: changing any one byte of a valid packet, by a flipped bit or more, makes the codec check fail with a
checksum or a magic error. -/
def Obligations.CodecDetectsChangedByte : Prop :=
  ∀ (p payload : List Byte) (magic code mask : Byte) (k : Nat),
    codecCheck p magic = .ok (code, payload) → k < p.length → mask ≠ 0x00#8 →
    codecCheck (p.set k (p.getD k 0x00#8 ^^^ mask)) magic = .error .checksumError ∨
      codecCheck (p.set k (p.getD k 0x00#8 ^^^ mask)) magic = .error .magicError

/-! ## Operations -/

/-- R133: ENABLE, with any payload, sets ENABLED, clears the frame counter, the rate and its window, answers OK, and
leaves everything else (ERROR_COUNT, LAST_START, the frame in flight, every byte of the spaces) as it was. -/
def Obligations.EnableStartsCountersOver : Prop :=
  ∀ (s : State) (p : List Byte), ∃ t,
    exec (.enable p) s = .next t ∧
    t.enabled = true ∧ t.frameCount = 0 ∧ t.fpsX100 = 0 ∧ t.winFrames = 0 ∧ t.winStart = s.nowUs ∧
    t.resp = some [0xBB#8, 0x00#8, 0x00#8, 0x00#8, 0xBB#8] ∧
    { t with
      enabled := s.enabled, frameCount := s.frameCount, fpsX100 := s.fpsX100, winFrames := s.winFrames,
      winStart := s.winStart, resp := s.resp } = s ∧
    BytesUnchanged s t

/-- R134: DISABLE, with any payload, clears ENABLED, answers OK, and leaves everything else, a frame in flight and the
counters among it, as it was. -/
def Obligations.DisableClearsEnabledOnly : Prop :=
  ∀ (s : State) (p : List Byte), ∃ t,
    exec (.disable p) s = .next t ∧ t.enabled = false ∧
    t.resp = some [0xBB#8, 0x00#8, 0x00#8, 0x00#8, 0xBB#8] ∧
    { t with enabled := s.enabled, resp := s.resp } = s ∧ BytesUnchanged s t

/-- R136, R95: GET_STATUS, with any payload, answers OK with ENABLED, FRAME_COUNT and FPS_X100, and writes no state. -/
def Obligations.GetStatusReports : Prop :=
  ∀ (s : State) (p : List Byte), ∃ t body,
    exec (.getStatus p) s = .next t ∧
    body = [0xBB#8, 0x00#8, 0x09#8, 0x00#8, if s.enabled then 0x01#8 else 0x00#8] ++
      bytesLE32 s.frameCount ++ bytesLE32 s.fpsX100 ∧
    t.resp = some (body ++ [xorsum body]) ∧
    { t with resp := s.resp } = s ∧ BytesUnchanged s t

/-- R142, R94: GET_TIMING, with any payload, answers OK with the configured values, not the latched ones, and writes no
state. -/
def Obligations.GetTimingReports : Prop :=
  ∀ (s : State) (p : List Byte), ∃ t body,
    exec (.getTiming p) s = .next t ∧
    body = [0xBB#8, 0x00#8, 0x06#8, 0x00#8] ++
      bytesLE16 s.refreshHz ++ bytesLE16 s.breakUs ++ bytesLE16 s.mabUs ∧
    t.resp = some (body ++ [xorsum body]) ∧
    { t with resp := s.resp } = s ∧ BytesUnchanged s t

/-- R135, R68: a SET_CHANNELS whose run fits writes the values at `start .. start+count−1`, answers OK, and leaves every
other channel and everything else as it was. `count = 0` and `start = 512` are included. -/
def Obligations.SetChannelsWritesItsRun : Prop :=
  ∀ (s : State) (start : Half) (values : List Byte),
    s.Inv → start.toNat + values.length ≤ 512 → ∃ t,
      exec (.setChannels (.run start values)) s = .next t ∧
      (∀ k, k < values.length → Memory.get t.univ (start.toNat + k) = values.getD k 0x00#8) ∧
      (∀ a, a < start.toNat ∨ start.toNat + values.length ≤ a → Memory.get t.univ a = Memory.get s.univ a) ∧
      t.resp = some [0xBB#8, 0x00#8, 0x00#8, 0x00#8, 0xBB#8] ∧
      { t with univ := s.univ, resp := s.resp } = s ∧
      (∀ a, Memory.get t.frame a = Memory.get s.frame a ∧ Memory.get t.rxbuf a = Memory.get s.rxbuf a)

/-- R135, R80, R102: a SET_CHANNELS without a `start` answers INVALID_LENGTH, one whose run passes channel 511 answers
ERROR, the sum unbounded; neither writes anything. -/
def Obligations.SetChannelsRejectedWhole : Prop :=
  (∀ (s : State) (p : List Byte), ∃ t,
    exec (.setChannels (.short p)) s = .next t ∧
    t.resp = some [0xBB#8, 0x04#8, 0x00#8, 0x00#8, 0xBF#8] ∧
    { t with resp := s.resp } = s ∧ BytesUnchanged s t) ∧
  ∀ (s : State) (start : Half) (values : List Byte), 512 < start.toNat + values.length → ∃ t,
    exec (.setChannels (.run start values)) s = .next t ∧
    t.resp = some [0xBB#8, 0xFF#8, 0x00#8, 0x00#8, 0x44#8] ∧
    { t with resp := s.resp } = s ∧ BytesUnchanged s t

/-- R137: BLACKOUT, with any payload, leaves every channel 0x00, answers OK, and leaves everything else as it was. -/
def Obligations.BlackoutZeroesUniverse : Prop :=
  ∀ (s : State) (p : List Byte), s.Inv → ∃ t,
    exec (.blackout p) s = .next t ∧ (∀ a, a < 512 → Memory.get t.univ a = 0x00#8) ∧
    t.resp = some [0xBB#8, 0x00#8, 0x00#8, 0x00#8, 0xBB#8] ∧
    { t with univ := s.univ, resp := s.resp } = s ∧
    (∀ a, Memory.get t.frame a = Memory.get s.frame a ∧ Memory.get t.rxbuf a = Memory.get s.rxbuf a)

/-- R141, R138: a SET_TIMING all of whose fields are 0 or in range writes each register whose field is not 0, answers OK,
and leaves everything else, the latched durations of a frame in flight among it, as it was. -/
def Obligations.SetTimingAppliesDeltas : Prop :=
  ∀ (s : State) (r b m : Half),
    (r = 0 ∨ 1 ≤ r.toNat ∧ r.toNat ≤ 44) → (b = 0 ∨ 88 ≤ b.toNat ∧ b.toNat ≤ 1000) →
    (m = 0 ∨ 8 ≤ m.toNat ∧ m.toNat ≤ 100) → ∃ t,
      exec (.setTiming (.fields r b m)) s = .next t ∧
      t.refreshHz = (if r = 0 then s.refreshHz else r) ∧ t.breakUs = (if b = 0 then s.breakUs else b) ∧
      t.mabUs = (if m = 0 then s.mabUs else m) ∧
      t.resp = some [0xBB#8, 0x00#8, 0x00#8, 0x00#8, 0xBB#8] ∧
      { t with refreshHz := s.refreshHz, breakUs := s.breakUs, mabUs := s.mabUs, resp := s.resp } = s ∧
      BytesUnchanged s t

/-- R141, R24: a SET_TIMING of another length than 6 answers INVALID_LENGTH, one with any field out of range answers ERROR;
neither writes any of the three registers or anything else. -/
def Obligations.SetTimingRejectedWhole : Prop :=
  (∀ (s : State) (p : List Byte), ∃ t,
    exec (.setTiming (.badLength p)) s = .next t ∧
    t.resp = some [0xBB#8, 0x04#8, 0x00#8, 0x00#8, 0xBF#8] ∧
    { t with resp := s.resp } = s ∧ BytesUnchanged s t) ∧
  ∀ (s : State) (r b m : Half),
    ((r ≠ 0 ∧ (r.toNat < 1 ∨ 44 < r.toNat)) ∨ (b ≠ 0 ∧ (b.toNat < 88 ∨ 1000 < b.toNat)) ∨
      (m ≠ 0 ∧ (m.toNat < 8 ∨ 100 < m.toNat))) → ∃ t,
      exec (.setTiming (.fields r b m)) s = .next t ∧
      t.resp = some [0xBB#8, 0xFF#8, 0x00#8, 0x00#8, 0x44#8] ∧
      { t with resp := s.resp } = s ∧ BytesUnchanged s t

/-- R139: where the block has SYSTEM_RESET, the right guard answers OK and sets PENDING_RST, and nothing else changes in
this tick's phase 1. -/
def Obligations.SystemResetSetsPending : Prop :=
  ∀ s : State, s.params.hasSystemReset = true → ∃ t,
    exec (.systemReset (.guard s.params.resetMagic)) s = .next t ∧
    t.pendingRst = true ∧ t.resp = some [0xBB#8, 0x00#8, 0x00#8, 0x00#8, 0xBB#8] ∧
    { t with pendingRst := s.pendingRst, resp := s.resp } = s ∧ BytesUnchanged s t

/-- R139, R199: where the block has SYSTEM_RESET, it answers INVALID_LENGTH where the payload is not 4 bytes, else ERROR
where the guard is wrong; neither writes anything. -/
def Obligations.SystemResetRejected : Prop :=
  (∀ (s : State) (p : List Byte), s.params.hasSystemReset = true → ∃ t,
    exec (.systemReset (.badLength p)) s = .next t ∧
    t.resp = some [0xBB#8, 0x04#8, 0x00#8, 0x00#8, 0xBF#8] ∧
    { t with resp := s.resp } = s ∧ BytesUnchanged s t) ∧
  ∀ (s : State) (m : Quad), s.params.hasSystemReset = true → m ≠ s.params.resetMagic → ∃ t,
    exec (.systemReset (.guard m)) s = .next t ∧
    t.resp = some [0xBB#8, 0xFF#8, 0x00#8, 0x00#8, 0x44#8] ∧
    { t with resp := s.resp } = s ∧ BytesUnchanged s t

/-- R132, R99: a reserved code, with any payload, answers INVALID_CMD and writes no state; 0x08 does the same in a block
without SYSTEM_RESET. -/
def Obligations.ReservedCodeAnswersInvalidCmd : Prop :=
  (∀ (s : State) (c : Byte) (p : List Byte), ∃ t,
    exec (decodeOp c p) s = .next t ∧
    (reservedCode c = true ∨ c = 0x08#8 ∧ s.params.hasSystemReset = false →
      t.resp = some [0xBB#8, 0x03#8, 0x00#8, 0x00#8, 0xB8#8] ∧
      { t with resp := s.resp } = s ∧ BytesUnchanged s t)) ∧
  ∀ (s : State) (c : Byte) (p : List Byte), ∃ t,
    exec (.reserved c p) s = .next t ∧
    t.resp = some [0xBB#8, 0x03#8, 0x00#8, 0x00#8, 0xB8#8] ∧
    { t with resp := s.resp } = s ∧ BytesUnchanged s t

/-- R72, R224: running an operation again at once leaves the same state and gives the same response as running it once. -/
def Obligations.RepeatedOperationChangesNothing : Prop :=
  ∀ (i : Instr) (s t : State), s.Inv → exec i s = .next t → exec i t = .next t

/-! ## Receiver and responses -/

/-- R118, R120, R122, R127: the receiver's transition table, all six states: the byte is stored at RXBUF[RXPOS] unless it is
discarded, every other byte of RXBUF stays, RXPOS, RXLEN and RXCNT become what the table says, and nothing outside the
receiver changes but what R_CHECKSUM raises or dispatches. -/
def Obligations.ReceiverTransitionTable : Prop :=
  ∀ (s : State) (b : Byte), s.Inv → ∃ t, receiverStep b s = .next t ∧
    (s.rstate = .idle → b = 0xAA#8 → t.rstate = .cmd ∧ t.rxpos = 1 ∧ Memory.get t.rxbuf 0 = b) ∧
    (s.rstate = .idle → b ≠ 0xAA#8 → t = s) ∧
    (s.rstate = .cmd → t.rstate = .lenLo ∧ t.rxpos = 2 ∧ Memory.get t.rxbuf 1 = b) ∧
    (s.rstate = .lenLo → t.rstate = .lenHi ∧ t.rxpos = 3 ∧ Memory.get t.rxbuf 2 = b) ∧
    (s.rstate = .lenHi → t.rxlen = le16 (Memory.get s.rxbuf 2) b ∧ Memory.get t.rxbuf 3 = b) ∧
    (s.rstate = .lenHi → 1024 < (le16 (Memory.get s.rxbuf 2) b).toNat →
      t.rstate = .idle ∧ t.rxpos = 0 ∧ t.rxcnt = s.rxcnt) ∧
    (s.rstate = .lenHi → (le16 (Memory.get s.rxbuf 2) b).toNat = 0 →
      t.rstate = .checksum ∧ t.rxpos = 4 ∧ t.rxcnt = s.rxcnt) ∧
    (s.rstate = .lenHi → 1 ≤ (le16 (Memory.get s.rxbuf 2) b).toNat →
      (le16 (Memory.get s.rxbuf 2) b).toNat ≤ 1024 → t.rstate = .data ∧ t.rxpos = 4 ∧ t.rxcnt = 0) ∧
    (s.rstate = .data → t.rxpos = s.rxpos + 1 ∧ t.rxcnt = s.rxcnt + 1 ∧
      t.rstate = if s.rxcnt.toNat + 1 = s.rxlen.toNat then .checksum else .data) ∧
    (s.rstate = .checksum → t.rstate = .idle ∧ t.rxpos = 0) ∧
    (s.rstate = .checksum → b ≠ xorsum (Memory.slice s.rxbuf 0 (4 + s.rxlen.toNat)) →
      t = ((s.storeRx b).raise .invalidChecksum).toReceiverIdle) ∧
    (s.rstate = .checksum → b = xorsum (Memory.slice s.rxbuf 0 (4 + s.rxlen.toNat)) → ∃ u,
      exec (decodeOp (Memory.get s.rxbuf 1) (Memory.slice s.rxbuf 4 s.rxlen.toNat)) (s.storeRx b) = .next u ∧
      t = u.toReceiverIdle) ∧
    (s.rstate ≠ .idle ∨ b = 0xAA#8 →
      Memory.get t.rxbuf s.rxpos.toNat = b ∧
      ∀ a, a ≠ s.rxpos.toNat → Memory.get t.rxbuf a = Memory.get s.rxbuf a) ∧
    (s.rstate ≠ .lenHi → t.rxlen = s.rxlen) ∧
    (s.rstate ≠ .lenHi → s.rstate ≠ .data → t.rxcnt = s.rxcnt) ∧
    (s.rstate ≠ .checksum →
      { t with
        rstate := s.rstate, rxpos := s.rxpos, rxlen := s.rxlen, rxcnt := s.rxcnt, rxbuf := s.rxbuf } = s)

/-- R121: in R_IDLE a byte other than 0xAA changes no state, emits no response and counts in no counter: the tick is what
it is without a byte. -/
def Obligations.NonMagicByteDiscarded : Prop :=
  ∀ (s : State) (b : Byte) (later : List PortInput),
    s.rstate = .idle → b ≠ 0xAA#8 →
    receiverStep b s = .next s ∧
    step { s with inputs := ⟨false, some b⟩ :: later } = step { s with inputs := ⟨false, none⟩ :: later } ∧
    ∀ t, step { s with inputs := ⟨false, some b⟩ :: later } = .next t → t.resp = none

/-- R119: a tick without a byte leaves all receiver state as it was, however long a packet has been waiting. -/
def Obligations.NoByteKeepsReceiver : Prop :=
  ∀ s t : State, step s = .next t → s.resetNow = false → s.portInput.rx = none →
    t.rstate = s.rstate ∧ t.rxpos = s.rxpos ∧ t.rxlen = s.rxlen ∧ t.rxcnt = s.rxcnt ∧
    (∀ a, Memory.get t.rxbuf a = Memory.get s.rxbuf a) ∧ t.resp = none

/-- R123: a byte in R_CHECKSUM other than the XOR of the `4 + RXLEN` bytes before it answers INVALID_CHECKSUM, applies no
operation, and changes nothing outside the receiver, which returns to R_IDLE. -/
def Obligations.BadChecksumAnswered : Prop :=
  ∀ (s : State) (b : Byte), s.Inv → s.rstate = .checksum →
    b ≠ xorsum (Memory.slice s.rxbuf 0 (4 + s.rxlen.toNat)) → ∃ t,
      receiverStep b s = .next t ∧
      t.resp = some [0xBB#8, 0x02#8, 0x00#8, 0x00#8, 0xB9#8] ∧ t.rstate = .idle ∧ t.rxpos = 0 ∧
      (∀ a, a ≠ s.rxpos.toNat → Memory.get t.rxbuf a = Memory.get s.rxbuf a) ∧
      { t with rstate := s.rstate, rxpos := s.rxpos, rxbuf := s.rxbuf, resp := s.resp } = s ∧
      (∀ a, Memory.get t.univ a = Memory.get s.univ a ∧ Memory.get t.frame a = Memory.get s.frame a)

/-- R122: a declared length above 1024 sends the receiver to R_IDLE at its high byte, with no response, and changes nothing
outside the receiver; no payload byte is stored. -/
def Obligations.OverLengthAbandoned : Prop :=
  ∀ (s : State) (b : Byte), s.Inv → s.rstate = .lenHi → 1024 < (le16 (Memory.get s.rxbuf 2) b).toNat → ∃ t,
    receiverStep b s = .next t ∧ t.rstate = .idle ∧ t.rxpos = 0 ∧ t.resp = s.resp ∧
    (∀ a, a ≠ 3 → Memory.get t.rxbuf a = Memory.get s.rxbuf a) ∧
    { t with rstate := s.rstate, rxpos := s.rxpos, rxlen := s.rxlen, rxbuf := s.rxbuf } = s ∧
    (∀ a, Memory.get t.univ a = Memory.get s.univ a ∧ Memory.get t.frame a = Memory.get s.frame a)

/-- R126: after the byte taken in R_CHECKSUM the receiver is in R_IDLE with RXPOS = 0, whatever the outcome. -/
def Obligations.ReceiverReturnsAfterChecksum : Prop :=
  ∀ (s t : State) (b : Byte), s.rstate = .checksum → receiverStep b s = .next t → t.rstate = .idle ∧ t.rxpos = 0

/-- R130, R124, R120: the packet of any well-formed operation, presented byte by byte to a receiver in R_IDLE, dispatches
exactly that operation, once, on a state that differs from the one before the packet in the receiver's own fields only. -/
def Obligations.PacketDispatchesItsOperation : Prop :=
  ∀ (i : Instr) (s : State), i.wf = true → Memory.wf s.rxbuf = true → s.rstate = .idle → ∃ r : State,
    { r with rstate := s.rstate, rxbuf := s.rxbuf, rxpos := s.rxpos, rxlen := s.rxlen, rxcnt := s.rxcnt } = s ∧
    receiveAll (encode i) s = andThen (exec i r) State.toReceiverIdle

/-- R129, R223: from any legal state, 1030 ticks with the byte 0x00 leave the receiver in R_IDLE. -/
def Obligations.ZeroBytesResynchronise : Prop :=
  ∀ s : State, s.Inv → s.inputs.take 1030 = List.replicate 1030 ⟨false, some 0x00#8⟩ → ∃ t,
    runTicks 1030 s = .next t ∧ t.rstate = .idle

/-- R20, R45, R224: a tick emits a response exactly when it is no reset tick and takes a byte in R_CHECKSUM. -/
def Obligations.OneResponsePerPacket : Prop :=
  ∀ s t : State, step s = .next t →
    (t.resp.isSome = true ↔ s.resetNow = false ∧ s.rstate = .checksum ∧ s.portInput.rx.isSome = true)

/-- R87, R98, R100, R197: every response is a framed packet with a payload of 0, 6 or 9 bytes, never INVALID_MAGIC, and an
error response has an empty payload. -/
def Obligations.ResponsesAreWellFormed : Prop :=
  ∀ (s t : State) (packet : List Byte), step s = .next t → t.resp = some packet → ∃ st payload,
    packet = responsePacket st payload ∧ st ≠ .invalidMagic ∧
    (payload.length = 0 ∨ payload.length = 6 ∨ payload.length = 9) ∧ (st ≠ .ok → payload = [])

/-! ## Reset -/

/-- R50: the reset value of every element of the spec, whatever the parameters; `State.reset` is that state for some. -/
def Obligations.ResetValues : Prop :=
  (∃ p : Params, State.reset = State.resetWith p) ∧ ∀ p : Params, ∃ s, s = State.resetWith p ∧
    s.refreshHz = 44 ∧ s.breakUs = 150 ∧ s.mabUs = 12 ∧ s.enabled = false ∧ s.frameCount = 0 ∧
    s.fpsX100 = 0 ∧ s.errorCount = 0 ∧ (∀ a, Memory.get s.univ a = 0x00#8) ∧
    (∀ a, Memory.get s.frame a = 0x00#8) ∧ s.estate = .idle ∧ s.phaseCnt = 0 ∧ s.latBreak = 0 ∧
    s.latMab = 0 ∧ s.cursor = 0 ∧ s.lastStart = 0 ∧ s.lastStartValid = false ∧ s.lastComplete = 0 ∧
    s.winStart = 0 ∧ s.winFrames = 0 ∧ s.underrun = false ∧ s.fifo = [] ∧ s.shActive = false ∧
    s.shByte = 0x00#8 ∧ s.shTick = 0 ∧ s.rstate = .idle ∧ s.rxpos = 0 ∧ s.rxlen = 0 ∧ s.rxcnt = 0 ∧
    (∀ a, Memory.get s.rxbuf a = 0x00#8) ∧ s.nowUs = 0 ∧ s.pendingRst = false

/-- R216, R218, R45: in a tick with RST or PENDING_RST, every element of the spec takes its reset value, NOW_US included,
the line is 1, the byte presented is not consumed and no response is emitted. -/
def Obligations.ResetTickResetsEverything : Prop :=
  ∀ s : State, s.portInput.rst = true ∨ s.pendingRst = true →
    step s = .next { State.resetWith s.params with inputs := s.inputs.tail, line := true, resp := none }

/-- R139 with R216: the tick after an accepted SYSTEM_RESET is a reset tick, whatever the ports carry. -/
def Obligations.AcceptedSystemResetResetsNextTick : Prop :=
  ∀ s t : State, step s = .next t → s.resetNow = false → s.params.hasSystemReset = true →
    dispatched s = some (.systemReset (.guard s.params.resetMagic)) →
    t.resp = some [0xBB#8, 0x00#8, 0x00#8, 0x00#8, 0xBB#8] ∧
      step t = .next { State.resetWith t.params with inputs := t.inputs.tail, line := true, resp := none }

/-! ## Sequencer -/

/-- R152, R155, R156: in IDLE a frame starts exactly when the engine is enabled, the line is drained, and the interval
since the last start has passed or there was none; otherwise the sequencer changes nothing. -/
def Obligations.IdleStartsFrameExactlyWhenAllowed : Prop :=
  ∀ s : State, s.Inv → ClockLegal s → s.estate = .idle →
    (s.enabled = true ∧ s.fifo = [] ∧ s.shActive = false ∧
        (s.lastStartValid = false ∨ 1000000 / s.refreshHz.toNat ≤ s.nowUs.toNat - s.lastStart.toNat) →
      ∃ t, sequencerStep s = t ∧ t.estate = .brk ∧ t.phaseCnt = s.breakUs ∧ t.latBreak = s.breakUs ∧
        t.latMab = s.mabUs ∧ t.lastStart = s.nowUs ∧ t.lastStartValid = true ∧
        { t with
          frame := s.frame, latBreak := s.latBreak, latMab := s.latMab, lastStart := s.lastStart,
          lastStartValid := s.lastStartValid, phaseCnt := s.phaseCnt, estate := s.estate } = s) ∧
    (¬(s.enabled = true ∧ s.fifo = [] ∧ s.shActive = false ∧
        (s.lastStartValid = false ∨ 1000000 / s.refreshHz.toNat ≤ s.nowUs.toNat - s.lastStart.toNat)) →
      sequencerStep s = s)

/-- R157, R70, R77, R200: in the tick in which a frame starts, FRAME becomes the start code and the universe as this tick's
operation left it, and the durations are latched; in every other tick but a reset tick FRAME keeps every byte. -/
def Obligations.SnapshotTakenAtFrameStartOnly : Prop :=
  (∀ s t : State, s.Inv → startsFrame s t →
    Memory.get t.frame 0 = 0x00#8 ∧ (∀ k, k < 512 → Memory.get t.frame (k + 1) = Memory.get t.univ k) ∧
    t.latBreak = t.breakUs ∧ t.latMab = t.mabUs ∧ t.phaseCnt = t.breakUs ∧ t.lastStart = s.nowUs) ∧
  ∀ s t : State, step s = .next t → s.resetNow = false → ¬startsFrame s t →
    ∀ a, Memory.get t.frame a = Memory.get s.frame a

/-- R155, R168, R169, R181, R25: a frame starts only on a drained line, in an engine that this tick's operation left enabled, and
at least `1000000 // REFRESH_HZ` ticks after the frame before it. -/
def Obligations.FrameStartsAreSpaced : Prop :=
  ∀ s t : State, ClockLegal s → startsFrame s t →
    t.enabled = true ∧ s.fifo = [] ∧ s.shActive = false ∧
    (s.lastStartValid = true →
      1000000 / t.refreshHz.toNat ≤ t.lastStart.toNat - s.lastStart.toNat)

/-- R153, R154, R164, R188: a frame that starts at tick `s` holds the line at 0 for LAT_BREAK ticks in BREAK, at 1 for
LAT_MAB ticks in MAB, and then carries the 513 bytes of FRAME as slots back to back, bit by bit; nothing the host sends
changes that, unless a reset tick comes. Tick `n` counts from the frame's first. -/
def Obligations.FrameTimelineOnTheLine : Prop :=
  ∀ (s u : State) (n : Nat), s.Inv → startsFrame s u → noResetFor (n + 1) s = true →
    n < u.latBreak.toNat + u.latMab.toNat + 513 * s.params.slotUs → ∃ t,
      runTicks (n + 1) s = .next t ∧
      if n < u.latBreak.toNat then t.estate = .brk ∧ t.line = false
      else if n < u.latBreak.toNat + u.latMab.toNat then t.estate = .mab ∧ t.line = true
      else
        t.line = slotBit
          (Memory.get u.frame ((n - (u.latBreak.toNat + u.latMab.toNat)) / s.params.slotUs))
          ((n - (u.latBreak.toNat + u.latMab.toNat)) % s.params.slotUs / s.params.bitUs.val)

/-- R164, R160, R165: the frame completes, DATA ending in IDLE, in the tick its last byte enters the FIFO: the first data tick
if the FIFO holds a whole frame, else `(512 − D)·S + 1` ticks later; before that tick it is in DATA. -/
def Obligations.FrameCompletesAtItsTick : Prop :=
  ∀ (s u : State) (n : Nat), s.Inv → startsFrame s u → noResetFor (n + 1) s = true →
    u.latBreak.toNat + u.latMab.toNat ≤ n →
    n < u.latBreak.toNat + u.latMab.toNat + 513 * s.params.slotUs → ∃ t,
      runTicks (n + 1) s = .next t ∧
      (t.estate = .data ↔ s.params.depth < 513 ∧
        n < u.latBreak.toNat + u.latMab.toNat + (512 - s.params.depth) * s.params.slotUs + 1) ∧
      (t.estate ≠ .data → t.estate = .idle) ∧
      (drained t = true ↔ n + 1 = u.latBreak.toNat + u.latMab.toNat + 513 * s.params.slotUs)

/-- R226, R164: with the ports idle and no reset pending, the frame after one that starts now starts exactly
`max (1000000 // REFRESH_HZ) (LAT_BREAK + LAT_MAB + 513·SLOT_US)` ticks later. The premise on the clock keeps NOW_US
below its last tick (log 4). -/
def Obligations.FramePeriodIsExact : Prop :=
  ∀ s u : State, s.Inv → startsFrame s u → s.inputs = [] → s.pendingRst = false →
    s.nowUs.toNat + max (1000000 / s.refreshHz.toNat)
      (s.breakUs.toNat + s.mabUs.toNat + 513 * s.params.slotUs) < 2 ^ 64 - 1 →
    (∃ t v, runTicks (max (1000000 / s.refreshHz.toNat)
        (s.breakUs.toNat + s.mabUs.toNat + 513 * s.params.slotUs)) s = .next t ∧ startsFrame t v) ∧
    ∀ n t v, 0 < n →
      n < max (1000000 / s.refreshHz.toNat)
        (s.breakUs.toNat + s.mabUs.toNat + 513 * s.params.slotUs) →
      runTicks n s = .next t → ¬startsFrame t v

/-- R165, R166, R167, R201: two blocks with the same frame in flight keep the same frame in flight and drive the same line,
whatever bytes their hosts present and whatever else they hold, in every tick that is no reset tick. -/
def Obligations.FrameInFlightIgnoresTheHost : Prop :=
  ∀ s s' t t' : State, s.frameView = s'.frameView → s.estate ≠ .idle →
    s.resetNow = false → s'.resetNow = false → step s = .next t → step s' = .next t' →
    t.frameView = t'.frameView ∧ t.line = t'.line

/-- R159, R158, R82, R160, R163: a data push appends the next bytes of FRAME in order, as many as the FIFO has room for and the
frame has left, moves CURSOR past them, sets UNDERRUN where the line has run dry in a tick after the entry tick, and
changes nothing else; where CURSOR reaches 513 it completes the frame on the state so written. -/
def Obligations.DataPushFillsTheQueue : Prop :=
  ∀ (s : State) (entry : Bool), s.cursor.toNat ≤ 513 → s.fifo.length ≤ s.params.depth → ∃ n u,
    n = min (513 - s.cursor.toNat) (s.params.depth - s.fifo.length) ∧
    u.cursor.toNat = s.cursor.toNat + n ∧
    u.fifo = s.fifo ++ Memory.slice s.frame s.cursor.toNat n ∧ u.fifo.length ≤ s.params.depth ∧
    (u.underrun = true ↔ s.underrun = true ∨ entry = false ∧ s.fifo = [] ∧ s.shActive = false) ∧
    { u with cursor := s.cursor, fifo := s.fifo, underrun := s.underrun } = s ∧
    (s.cursor.toNat + n < 513 → dataPush entry s = u) ∧
    (s.cursor.toNat + n = 513 → dataPush entry s = frameComplete u)

/-- R160, R161, R162, R163: completing a frame counts it, records the tick, takes the rate's sample where at least 1000 ms have
passed since the window began, counts an underrun once, and goes to IDLE; nothing else changes. -/
def Obligations.FrameCompletionCounts : Prop :=
  ∀ s : State, ClockLegal s → ∃ t ms,
    frameComplete s = t ∧ ms = (s.nowUs.toNat - s.winStart.toNat) / 1000 ∧
    t.frameCount = s.frameCount + 1 ∧ t.lastComplete = s.nowUs ∧ t.estate = .idle ∧
    (1000 ≤ ms → t.fpsX100.toNat = (s.winFrames + 1).toNat * 100000 / ms % 2 ^ 32 ∧
      t.winFrames = 0 ∧ t.winStart = s.nowUs) ∧
    (ms < 1000 → t.fpsX100 = s.fpsX100 ∧ t.winFrames = s.winFrames + 1 ∧ t.winStart = s.winStart) ∧
    (s.underrun = true → t.errorCount = s.errorCount + 1) ∧
    (s.underrun = false → t.errorCount = s.errorCount) ∧ t.underrun = false ∧
    { t with
      frameCount := s.frameCount, winFrames := s.winFrames, lastComplete := s.lastComplete,
      fpsX100 := s.fpsX100, winStart := s.winStart, errorCount := s.errorCount, underrun := s.underrun,
      estate := s.estate } = s

/-- R163, R186: no frame underruns: from a legal state, no tick but a reset tick changes ERROR_COUNT. -/
def Obligations.NoFrameUnderruns : Prop :=
  ∀ s t : State, s.Inv → step s = .next t → s.resetNow = false →
    t.errorCount = s.errorCount ∧ t.underrun = false

/-! ## Serializer -/

/-- R184: a slot's bits: a start bit 0, the eight data bits from the least significant, and 1 from then on. -/
def Obligations.SlotBitLayout : Prop :=
  ∀ (b : Byte) (i : Nat),
    (i = 0 → slotBit b i = false) ∧ (1 ≤ i → i ≤ 8 → slotBit b i = b.getLsbD (i - 1)) ∧
    (8 < i → slotBit b i = true)

/-- R182, R184, R185: an idle shift register with a byte waiting shifts it out in exactly SLOT_US ticks, each bit for BIT_US of
them, and is then idle again with the rest of the queue as it was. -/
def Obligations.SlotTakesSlotUsTicks : Prop :=
  ∀ (s : State) (b : Byte) (rest : List Byte) (j : Nat),
    (s.estate = .idle ∨ s.estate = .data) → s.shActive = false → s.fifo = b :: rest → j < s.params.slotUs →
    (serializerStep^[j + 1] s).line = slotBit b (j / s.params.bitUs.val) ∧
    (serializerStep^[j + 1] s).fifo = rest ∧
    ((serializerStep^[j + 1] s).shActive = false ↔ j + 1 = s.params.slotUs)

/-- R183, R187: the line is 0 in a tick that ends in BREAK, 1 in one that ends in MAB, and 1 in one with nothing to send. -/
def Obligations.LineLevelFollowsState : Prop :=
  ∀ s t : State, step s = .next t → s.resetNow = false →
    (t.estate = .brk → t.line = false) ∧ (t.estate = .mab → t.line = true) ∧
    (t.estate = .idle → s.estate = .idle → drained s = true → t.line = true)

/-! ## Rules of the whole machine -/

/-- R24, R31, R33, R35, R41, R51, R81, R82, R163: the invariant of the block holds after every step from a state that meets it. -/
def Obligations.StepKeepsInvariant : Prop :=
  ∀ s t : State, s.Inv → step s = .next t → t.Inv

/-- R50, R24: the reset state meets the invariant, whatever the parameters. -/
def Obligations.ResetMeetsInvariant : Prop :=
  (∀ p : Params, (State.resetWith p).Inv) ∧ State.reset.Inv ∧ ∀ p : Params, ClockLegal (State.resetWith p)

/-- R209: no error, no input and no state stops the block: from a legal state every tick has a next state. -/
def Obligations.BlockNeverStops : Prop :=
  ∀ s : State, s.Inv → ∃ t, step s = .next t

/-- R24: REFRESH_HZ, BREAK_US and MAB_US are legal after reset and after every tick. -/
def Obligations.TimingRegistersStayLegal : Prop :=
  (∀ p : Params, TimingLegal (State.resetWith p)) ∧
  ∀ s t : State, TimingLegal s → step s = .next t → TimingLegal t

/-- R10, R44: NOW_US goes up by one in every tick but a reset tick, which leaves it 0. Its last value is left out (log 4). -/
def Obligations.ClockCountsTicks : Prop :=
  ∀ s t : State, step s = .next t →
    (s.resetNow = true → t.nowUs = 0) ∧
    (s.resetNow = false → s.nowUs.toNat + 1 < 2 ^ 64 → t.nowUs.toNat = s.nowUs.toNat + 1)

/-- R36, R38, R44: LAST_START and WIN_START never lie ahead of the clock while it counts. -/
def Obligations.RecordedTicksNotAhead : Prop :=
  ∀ s t : State, ClockLegal s → s.nowUs.toNat + 1 < 2 ^ 64 → step s = .next t → ClockLegal t

/-- R61, R30: only SET_CHANNELS, BLACKOUT and reset write UNIV. -/
def Obligations.OnlyOperationsWriteUniverse : Prop :=
  ∀ s t : State, step s = .next t → s.resetNow = false →
    (∀ op, dispatched s ≠ some (.setChannels op)) → (∀ p, dispatched s ≠ some (.blackout p)) →
    ∀ a, Memory.get t.univ a = Memory.get s.univ a

/-- R21, R22, R23, R27: only SET_TIMING and reset write the timing registers, and no tick writes the build parameters. -/
def Obligations.OnlySetTimingWritesTiming : Prop :=
  ∀ s t : State, step s = .next t →
    t.params = s.params ∧
    (s.resetNow = false → (∀ op, dispatched s ≠ some (.setTiming op)) →
      t.refreshHz = s.refreshHz ∧ t.breakUs = s.breakUs ∧ t.mabUs = s.mabUs)

/-- R25: only ENABLE, DISABLE and reset write ENABLED. -/
def Obligations.OnlyEnableDisableWriteEnabled : Prop :=
  ∀ s t : State, step s = .next t → s.resetNow = false →
    (∀ p, dispatched s ≠ some (.enable p)) → (∀ p, dispatched s ≠ some (.disable p)) →
    t.enabled = s.enabled

/-- R160, R159, R161, R165, R133, R26, R37, R38: a tick that takes the sequencer from MAB or DATA to IDLE completes the frame:
it is counted, the tick is recorded and the rate is sampled, whether or not the engine is still enabled. An ENABLE
dispatched in the same tick has cleared the counters first, so that the frame is the first of the new count. -/
def Obligations.CompletedFrameIsCounted : Prop :=
  ∀ s t : State, s.Inv → ClockLegal s → step s = .next t → s.resetNow = false →
    s.estate = .mab ∨ s.estate = .data → t.estate = .idle → ∃ ms,
      ms = (s.nowUs.toNat - s.winStart.toNat) / 1000 ∧ t.lastComplete = s.nowUs ∧
      t.cursor.toNat = 513 ∧ t.underrun = false ∧
      ((∀ p, dispatched s ≠ some (.enable p)) →
        t.frameCount = s.frameCount + 1 ∧
        (1000 ≤ ms → t.fpsX100.toNat = (s.winFrames + 1).toNat * 100000 / ms % 2 ^ 32 ∧
          t.winFrames = 0 ∧ t.winStart = s.nowUs) ∧
        (ms < 1000 → t.fpsX100 = s.fpsX100 ∧ t.winFrames = s.winFrames + 1 ∧ t.winStart = s.winStart)) ∧
      ((∃ p, dispatched s = some (.enable p)) →
        t.frameCount = 1 ∧ t.fpsX100 = 0 ∧ t.winFrames = 1 ∧ t.winStart = s.nowUs)

/-- R26, R28, R29, R37, R38, R49, R133: in a tick that is no reset tick and completes no frame, LAST_COMPLETE and ERROR_COUNT keep
their values, and FRAME_COUNT, FPS_X100, WIN_FRAMES and WIN_START keep theirs too unless ENABLE is dispatched, which
clears them and starts the window at this tick. -/
def Obligations.OnlyCompletionAndEnableWriteCounters : Prop :=
  ∀ s t : State, step s = .next t → s.resetNow = false →
    ¬((s.estate = .mab ∨ s.estate = .data) ∧ t.estate = .idle) →
    t.lastComplete = s.lastComplete ∧ t.errorCount = s.errorCount ∧
    ((∀ p, dispatched s ≠ some (.enable p)) →
      t.frameCount = s.frameCount ∧ t.fpsX100 = s.fpsX100 ∧ t.winFrames = s.winFrames ∧
        t.winStart = s.winStart) ∧
    ((∃ p, dispatched s = some (.enable p)) →
      t.frameCount = 0 ∧ t.fpsX100 = 0 ∧ t.winFrames = 0 ∧ t.winStart = s.nowUs)
end

