-- ==== Sys2Proof/Laws/Bytes.lean ====
section
/-! SUPPORT. Byte order and checksum: assembling and splitting are inverse, and the XOR of a list is the XOR of its parts. -/

namespace Sys2Proof

theorem getLsbD_le16 (b0 b1 : Byte) (i : Nat) :
    (le16 b0 b1).getLsbD i = if i < 8 then b0.getLsbD i else b1.getLsbD (i - 8) :=
  BitVec.getLsbD_append

theorem getLsbD_le32 (b0 b1 b2 b3 : Byte) (i : Nat) :
    (le32 b0 b1 b2 b3).getLsbD i =
      if i < 8 then b0.getLsbD i else if i - 8 < 8 then b1.getLsbD (i - 8)
      else if i - 8 - 8 < 8 then b2.getLsbD (i - 8 - 8) else b3.getLsbD (i - 8 - 8 - 8) := by
  have h : (le32 b0 b1 b2 b3).getLsbD i = (b3 ++ b2 ++ b1 ++ b0).getLsbD i := rfl
  rw [h, BitVec.getLsbD_append, BitVec.getLsbD_append, BitVec.getLsbD_append]

@[simp] theorem le16_extract (v : Half) : le16 (v.extractLsb' 0 8) (v.extractLsb' 8 8) = v := by
  apply BitVec.eq_of_getLsbD_eq
  intro i hi
  rw [getLsbD_le16]
  split_ifs with h
  · simp [h]
  · simp [show i - 8 < 8 by omega, show 8 + (i - 8) = i by omega]

@[simp] theorem bytesLE16_le16 (b0 b1 : Byte) : bytesLE16 (le16 b0 b1) = [b0, b1] := by
  simp only [bytesLE16, List.cons.injEq, and_true]
  constructor <;> (apply BitVec.eq_of_getLsbD_eq; intro i hi)
  · simp [getLsbD_le16, hi]
  · simp [getLsbD_le16, hi]

@[simp] theorem le32_extract (v : Quad) :
    le32 (v.extractLsb' 0 8) (v.extractLsb' 8 8) (v.extractLsb' 16 8) (v.extractLsb' 24 8) = v := by
  apply BitVec.eq_of_getLsbD_eq
  intro i hi
  rw [getLsbD_le32]
  split_ifs with h1 h2 h3
  · simp [h1]
  · simp [h2, show 8 + (i - 8) = i by omega]
  · simp [h3, show 16 + (i - 8 - 8) = i by omega]
  · simp [show i - 8 - 8 - 8 < 8 by omega, show 24 + (i - 8 - 8 - 8) = i by omega]

@[simp] theorem bytesLE32_le32 (b0 b1 b2 b3 : Byte) : bytesLE32 (le32 b0 b1 b2 b3) = [b0, b1, b2, b3] := by
  simp only [bytesLE32, List.cons.injEq, and_true]
  refine ⟨?_, ?_, ?_, ?_⟩ <;> (apply BitVec.eq_of_getLsbD_eq; intro i hi)
  · simp [getLsbD_le32, hi]
  · simp [getLsbD_le32, hi]
  · simp [getLsbD_le32, hi, show 16 + i - 8 - 8 = i by omega,
      show ¬16 + i < 8 by omega, show ¬16 + i - 8 < 8 by omega]
  · simp [getLsbD_le32, hi, show 24 + i - 8 - 8 - 8 = i by omega,
      show ¬24 + i < 8 by omega, show ¬24 + i - 8 < 8 by omega, show ¬24 + i - 8 - 8 < 8 by omega]

/-- R13: `LE16(b0, b1) = b0 + 256*b1`. -/
theorem le16_toNat (b0 b1 : Byte) : (le16 b0 b1).toNat = b0.toNat + 256 * b1.toNat := by
  have h0 := b0.isLt
  rw [le16, BitVec.toNat_append, Nat.shiftLeft_eq, Nat.mul_comm, ← Nat.two_pow_add_eq_or_of_lt h0]
  omega

@[simp] theorem bytesLE16_length (v : Half) : (bytesLE16 v).length = 2 := rfl

@[simp] theorem bytesLE32_length (v : Quad) : (bytesLE32 v).length = 4 := rfl

theorem foldl_xor (acc : Byte) (l : List Byte) : l.foldl (· ^^^ ·) acc = acc ^^^ xorsum l := by
  induction l generalizing acc with
  | nil => simp [xorsum]
  | cons b l ih =>
    rw [List.foldl_cons, ih, show xorsum (b :: l) = l.foldl (· ^^^ ·) (0x00#8 ^^^ b) from rfl, ih]
    simp [BitVec.xor_assoc]

@[simp] theorem xorsum_nil : xorsum [] = 0x00#8 := rfl

@[simp] theorem xorsum_cons (b : Byte) (l : List Byte) : xorsum (b :: l) = b ^^^ xorsum l := by
  rw [xorsum, List.foldl_cons, foldl_xor]; simp

@[simp] theorem xorsum_append (k l : List Byte) : xorsum (k ++ l) = xorsum k ^^^ xorsum l := by
  induction k with
  | nil => simp
  | cons b k ih => simp [ih, BitVec.xor_assoc]

@[simp] theorem framed_length (magic code : Byte) (p : List Byte) :
    (framed magic code p).length = 5 + p.length := by
  simp [framed]; omega

/-- R88: a packet's bytes, its checksum among them, XOR to 0x00. -/
theorem xorsum_framed (magic code : Byte) (p : List Byte) : xorsum (framed magic code p) = 0x00#8 := by
  simp only [framed]
  rw [xorsum_append, xorsum_cons, xorsum_nil, BitVec.xor_zero, BitVec.xor_self]

/-- The bytes of a framed packet, in order. -/
theorem framed_eq (magic code : Byte) (p : List Byte) :
    framed magic code p =
      magic :: code :: (BitVec.ofNat 16 p.length).extractLsb' 0 8 :: (BitVec.ofNat 16 p.length).extractLsb' 8 8 ::
        (p ++ [xorsum (magic :: code :: (BitVec.ofNat 16 p.length).extractLsb' 0 8 ::
          (BitVec.ofNat 16 p.length).extractLsb' 8 8 :: p)]) := rfl

end Sys2Proof
end

