-- ==== Sys2Proof/Laws/Memory.lean ====
section
/-! SUPPORT. The storage spaces: read after write, and every operation keeps the canonical form. -/

namespace Sys2Proof.Machine

theorem risingFrom_mono {m : Memory} {lo lo' : Nat} (h : lo' ≤ lo) (hm : Memory.risingFrom lo m = true) :
    Memory.risingFrom lo' m = true := by
  cases m with
  | nil => rfl
  | cons c m =>
    simp only [Memory.risingFrom, Bool.and_eq_true, decide_eq_true_eq] at hm ⊢
    exact ⟨le_trans h hm.1, hm.2⟩

/-- An index below every listed one reads as 0x00. -/
theorem get_eq_zero_of_risingFrom {m : Memory} {lo a : Nat} (hm : Memory.risingFrom lo m = true) (h : a < lo) :
    Memory.get m a = 0x00#8 := by
  induction m generalizing lo with
  | nil => rfl
  | cons c m ih =>
    simp only [Memory.risingFrom, Bool.and_eq_true, decide_eq_true_eq] at hm
    have : a ≠ c.1 := by omega
    simpa [Memory.get, this] using ih hm.2 (by omega)

/-- Read after write, in a space whose indices rise. -/
theorem get_set_of_risingFrom {m : Memory} {lo : Nat} (hm : Memory.risingFrom lo m = true) (a b : Nat) (v : Byte) :
    Memory.get (Memory.set m a v) b = if b = a then v else Memory.get m b := by
  induction m generalizing lo with
  | nil => by_cases hv : v = 0x00#8 <;> by_cases hb : b = a <;> simp [Memory.set, Memory.get, hv, hb]
  | cons c m ih =>
    obtain ⟨k, w⟩ := c
    simp only [Memory.risingFrom, Bool.and_eq_true, decide_eq_true_eq] at hm
    have below : ∀ {x}, x ≤ k → Memory.get m x = 0x00#8 := fun hx =>
      get_eq_zero_of_risingFrom hm.2 (by omega)
    by_cases h1 : a < k
    · have hne : a ≠ k := by omega
      by_cases hv : v = 0x00#8
      · by_cases hb : b = a
        · subst hb; simp [Memory.set, Memory.get, h1, hv, hne, below (le_of_lt h1)]
        · simp [Memory.set, h1, hv, hb]
      · simp [Memory.set, Memory.get, h1, hv]
    · by_cases h2 : a = k
      · subst h2
        by_cases hv : v = 0x00#8
        · by_cases hb : b = a
          · subst hb; simp [Memory.set, hv, below le_rfl]
          · simp [Memory.set, Memory.get, hv, hb]
        · by_cases hb : b = a <;> simp [Memory.set, Memory.get, hv, hb]
      · by_cases hb : b = k
        · have : b ≠ a := by omega
          simp [Memory.set, Memory.get, h1, h2, hb, Ne.symm h2]
        · simp [Memory.set, Memory.get, h1, h2, hb, ih hm.2]

theorem set_risingFrom {m : Memory} {lo : Nat} (hm : Memory.risingFrom lo m = true) {a : Nat} (h : lo ≤ a)
    (v : Byte) : Memory.risingFrom lo (Memory.set m a v) = true := by
  induction m generalizing lo with
  | nil => by_cases hv : v = 0x00#8 <;> simp [Memory.set, Memory.risingFrom, hv, h]
  | cons c m ih =>
    obtain ⟨k, w⟩ := c
    have hm' := hm
    simp only [Memory.risingFrom, Bool.and_eq_true, decide_eq_true_eq] at hm'
    by_cases h1 : a < k
    · by_cases hv : v = 0x00#8
      · simpa [Memory.set, h1, hv] using hm
      · simp [Memory.set, Memory.risingFrom, h1, hv, h, hm'.2, Nat.succ_le_of_lt h1]
    · by_cases h2 : a = k
      · subst h2
        by_cases hv : v = 0x00#8
        · simpa [Memory.set, hv] using risingFrom_mono (by omega) hm'.2
        · simp [Memory.set, Memory.risingFrom, hv, h, hm'.2]
      · simp [Memory.set, Memory.risingFrom, h1, h2, hm'.1, ih hm'.2 (by omega)]

/-- A write keeps any property of the listed cells that the written cell has when it is listed. -/
theorem set_all {m : Memory} {p : Host.Cell → Bool} (hm : m.all p = true) {a : Nat} {v : Byte}
    (h : v ≠ 0x00#8 → p (a, v) = true) : (Memory.set m a v).all p = true := by
  induction m with
  | nil => by_cases hv : v = 0x00#8 <;> simp [Memory.set, hv, h]
  | cons c m ih =>
    obtain ⟨k, w⟩ := c
    rw [List.all_cons, Bool.and_eq_true] at hm
    unfold Memory.set
    split_ifs with h1 hv h2 hv
    · rw [List.all_cons, hm.1, hm.2]; rfl
    · rw [List.all_cons, List.all_cons, h hv, hm.1, hm.2]; rfl
    · exact hm.2
    · rw [List.all_cons, h hv, hm.2]; rfl
    · rw [List.all_cons, hm.1, ih hm.2]; rfl

theorem wf_nil : Memory.wf [] = true := rfl

theorem within_nil (n : Nat) : Memory.within n [] = true := rfl

theorem get_set {m : Memory} (hm : Memory.wf m = true) (a b : Nat) (v : Byte) :
    Memory.get (Memory.set m a v) b = if b = a then v else Memory.get m b := by
  simp only [Memory.wf, Bool.and_eq_true] at hm
  exact get_set_of_risingFrom hm.1 a b v

/-- A write keeps the canonical form. -/
theorem set_wf {m : Memory} (hm : Memory.wf m = true) (a : Nat) (v : Byte) :
    Memory.wf (Memory.set m a v) = true := by
  simp only [Memory.wf, Bool.and_eq_true] at hm ⊢
  exact ⟨set_risingFrom hm.1 (Nat.zero_le a) v, set_all hm.2 fun hv => by simpa using hv⟩

theorem set_within {n : Nat} {m : Memory} (hm : Memory.within n m = true) {a : Nat} (h : a < n) (v : Byte) :
    Memory.within n (Memory.set m a v) = true :=
  set_all hm fun _ => by simpa using h

/-- A run of writes keeps the canonical form. -/
theorem setRun_wf {m : Memory} (hm : Memory.wf m = true) (a : Nat) (values : List Byte) :
    Memory.wf (Memory.setRun m a values) = true := by
  induction values generalizing m a with
  | nil => exact hm
  | cons v values ih => exact ih (set_wf hm a v) (a + 1)

theorem setRun_within {n : Nat} {m : Memory} (hm : Memory.within n m = true) {a : Nat} {values : List Byte}
    (h : a + values.length ≤ n) : Memory.within n (Memory.setRun m a values) = true := by
  induction values generalizing m a with
  | nil => exact hm
  | cons v values ih =>
    simp only [List.length_cons] at h
    exact ih (set_within hm (by omega) v) (by omega)

/-- What a run of writes leaves: the values at their places, everything else as it was. -/
theorem get_setRun {m : Memory} (hm : Memory.wf m = true) (a : Nat) (values : List Byte) (b : Nat) :
    Memory.get (Memory.setRun m a values) b =
      if a ≤ b then (values[b - a]?).getD (Memory.get m b) else Memory.get m b := by
  induction values generalizing m a with
  | nil => simp [Memory.setRun]
  | cons v values ih =>
    rw [Memory.setRun, ih (set_wf hm a v), get_set hm]
    rcases Nat.lt_trichotomy b a with h | h | h
    · simp [Nat.not_le.mpr h, Nat.ne_of_lt h, show ¬a + 1 ≤ b by omega]
    · subst h; simp
    · rw [if_pos (by omega), if_neg (by omega), if_pos (by omega), show b - a = (b - (a + 1)) + 1 by omega,
        List.getElem?_cons_succ]

/-- Reading back the run just written. -/
theorem slice_setRun {m : Memory} (hm : Memory.wf m = true) (a : Nat) (values : List Byte) :
    Memory.slice (Memory.setRun m a values) a values.length = values := by
  apply List.ext_getElem
  · simp [Memory.slice]
  · intro k h1 h2
    simp [Memory.slice, get_setRun hm, h2]

/-! ## Slices -/

@[simp] theorem slice_length (m : Memory) (a n : Nat) : (Memory.slice m a n).length = n := by simp [Memory.slice]

theorem slice_succ (m : Memory) (a n : Nat) :
    Memory.slice m a (n + 1) = Memory.get m a :: Memory.slice m (a + 1) n := by
  simp only [Memory.slice, List.range_succ_eq_map, List.map_cons, List.map_map, Nat.add_zero, List.cons.injEq,
    true_and]
  refine List.map_congr_left fun k _ => ?_
  simp only [Function.comp, Nat.succ_eq_add_one]
  congr 1; omega

theorem slice_append (m : Memory) (a n k : Nat) :
    Memory.slice m a n ++ Memory.slice m (a + n) k = Memory.slice m a (n + k) := by
  simp only [Memory.slice, List.range_add, List.map_append, List.map_map, List.append_cancel_left_eq]
  exact List.map_congr_left fun j _ => by simp [Nat.add_assoc]

theorem slice_congr {m m' : Memory} {a n : Nat} (h : ∀ k, k < n → Memory.get m (a + k) = Memory.get m' (a + k)) :
    Memory.slice m a n = Memory.slice m' a n :=
  List.map_congr_left fun k hk => h k (List.mem_range.1 hk)

/-- A write above a slice leaves it. -/
theorem slice_set_above {m : Memory} (hm : Memory.wf m = true) {a k n : Nat} (b : Byte) (h : k + n ≤ a) :
    Memory.slice (Memory.set m a b) k n = Memory.slice m k n :=
  slice_congr fun j hj => by rw [get_set hm, if_neg (by omega)]

/-! ## The snapshot -/

theorem get_shiftUp_zero (m : Memory) (n : Nat) : Memory.get (Memory.shiftUp m n) 0 = 0x00#8 := by
  induction m with
  | nil => rfl
  | cons c m ih =>
    simp only [Memory.shiftUp, List.filter_cons]
    split_ifs
    · simpa [Memory.shiftUp, Memory.get] using ih
    · exact ih

theorem get_shiftUp_succ (m : Memory) {n a : Nat} (h : a < n) :
    Memory.get (Memory.shiftUp m n) (a + 1) = Memory.get m a := by
  induction m with
  | nil => rfl
  | cons c m ih =>
    obtain ⟨k, w⟩ := c
    by_cases hk : k < n
    · simp only [Memory.shiftUp, List.filter_cons, hk, decide_true, if_true, List.map_cons, Memory.get]
      by_cases ha : a = k
      · simp [ha]
      · simpa [ha, Memory.shiftUp] using ih
    · have : a ≠ k := by omega
      simpa [Memory.shiftUp, List.filter_cons, hk, Memory.get, this] using ih

theorem shiftUp_risingFrom {m : Memory} {lo : Nat} (n : Nat) (hm : Memory.risingFrom lo m = true) :
    Memory.risingFrom (lo + 1) (Memory.shiftUp m n) = true := by
  induction m generalizing lo with
  | nil => rfl
  | cons c m ih =>
    obtain ⟨k, w⟩ := c
    simp only [Memory.risingFrom, Bool.and_eq_true, decide_eq_true_eq] at hm
    have ht := ih hm.2
    by_cases hk : k < n
    · simp only [Memory.shiftUp, List.filter_cons, hk, decide_true, if_true, List.map_cons, Memory.risingFrom,
        Bool.and_eq_true, decide_eq_true_eq]
      exact ⟨by omega, ht⟩
    · simpa [Memory.shiftUp, List.filter_cons, hk] using
        risingFrom_mono (show lo + 1 ≤ k + 1 + 1 by omega) ht

theorem shiftUp_wf {m : Memory} (hm : Memory.wf m = true) (n : Nat) :
    Memory.wf (Memory.shiftUp m n) = true := by
  simp only [Memory.wf, Bool.and_eq_true] at hm ⊢
  refine ⟨risingFrom_mono (Nat.zero_le _) (shiftUp_risingFrom n hm.1), ?_⟩
  have h2 := hm.2
  simp only [Memory.shiftUp, List.all_map, List.all_filter, List.all_eq_true, Function.comp] at h2 ⊢
  intro c hc
  simp [h2 c hc]

theorem shiftUp_within (m : Memory) (n : Nat) : Memory.within (n + 1) (Memory.shiftUp m n) = true := by
  simp [Memory.within, Memory.shiftUp, List.all_map, List.all_filter, Function.comp]

/-- The snapshot (R157): the start code, then the universe. -/
theorem get_snapshot {univ : Memory} (hm : Memory.wf univ = true) (a : Nat) (h : a < Config.frameLen) :
    Memory.get (snapshot univ) a = if a = 0 then Config.startCode else Memory.get univ (a - 1) := by
  rw [snapshot, get_set (shiftUp_wf hm _)]
  split_ifs with ha
  · rfl
  · obtain ⟨k, rfl⟩ := Nat.exists_eq_succ_of_ne_zero ha
    simpa using get_shiftUp_succ univ (show k < Config.universeSize from Nat.lt_of_succ_lt_succ h)

theorem snapshot_wf {univ : Memory} (hm : Memory.wf univ = true) : Memory.wf (snapshot univ) = true :=
  set_wf (shiftUp_wf hm _) _ _

theorem snapshot_within (univ : Memory) : Memory.within Config.frameLen (snapshot univ) = true :=
  set_within (shiftUp_within univ Config.universeSize) (by decide) _

end Sys2Proof.Machine
end

