-- ==== Sys2Proof/Laws/State.lean ====
section
/-! SUPPORT. One lemma per field of the state for each named update, so that no proof unfolds a record update. -/

namespace Sys2Proof.Machine

/-! ## `respond` -/

@[simp] theorem respond_params (s : State) (st : Status) (p : List Byte) :
    (s.respond st p).params = s.params := rfl
@[simp] theorem respond_refreshHz (s : State) (st : Status) (p : List Byte) :
    (s.respond st p).refreshHz = s.refreshHz := rfl
@[simp] theorem respond_breakUs (s : State) (st : Status) (p : List Byte) :
    (s.respond st p).breakUs = s.breakUs := rfl
@[simp] theorem respond_mabUs (s : State) (st : Status) (p : List Byte) :
    (s.respond st p).mabUs = s.mabUs := rfl
@[simp] theorem respond_enabled (s : State) (st : Status) (p : List Byte) :
    (s.respond st p).enabled = s.enabled := rfl
@[simp] theorem respond_frameCount (s : State) (st : Status) (p : List Byte) :
    (s.respond st p).frameCount = s.frameCount := rfl
@[simp] theorem respond_fpsX100 (s : State) (st : Status) (p : List Byte) :
    (s.respond st p).fpsX100 = s.fpsX100 := rfl
@[simp] theorem respond_errorCount (s : State) (st : Status) (p : List Byte) :
    (s.respond st p).errorCount = s.errorCount := rfl
@[simp] theorem respond_univ (s : State) (st : Status) (p : List Byte) :
    (s.respond st p).univ = s.univ := rfl
@[simp] theorem respond_frame (s : State) (st : Status) (p : List Byte) :
    (s.respond st p).frame = s.frame := rfl
@[simp] theorem respond_estate (s : State) (st : Status) (p : List Byte) :
    (s.respond st p).estate = s.estate := rfl
@[simp] theorem respond_phaseCnt (s : State) (st : Status) (p : List Byte) :
    (s.respond st p).phaseCnt = s.phaseCnt := rfl
@[simp] theorem respond_latBreak (s : State) (st : Status) (p : List Byte) :
    (s.respond st p).latBreak = s.latBreak := rfl
@[simp] theorem respond_latMab (s : State) (st : Status) (p : List Byte) :
    (s.respond st p).latMab = s.latMab := rfl
@[simp] theorem respond_cursor (s : State) (st : Status) (p : List Byte) :
    (s.respond st p).cursor = s.cursor := rfl
@[simp] theorem respond_lastStart (s : State) (st : Status) (p : List Byte) :
    (s.respond st p).lastStart = s.lastStart := rfl
@[simp] theorem respond_lastStartValid (s : State) (st : Status) (p : List Byte) :
    (s.respond st p).lastStartValid = s.lastStartValid := rfl
@[simp] theorem respond_lastComplete (s : State) (st : Status) (p : List Byte) :
    (s.respond st p).lastComplete = s.lastComplete := rfl
@[simp] theorem respond_winStart (s : State) (st : Status) (p : List Byte) :
    (s.respond st p).winStart = s.winStart := rfl
@[simp] theorem respond_winFrames (s : State) (st : Status) (p : List Byte) :
    (s.respond st p).winFrames = s.winFrames := rfl
@[simp] theorem respond_underrun (s : State) (st : Status) (p : List Byte) :
    (s.respond st p).underrun = s.underrun := rfl
@[simp] theorem respond_fifo (s : State) (st : Status) (p : List Byte) :
    (s.respond st p).fifo = s.fifo := rfl
@[simp] theorem respond_shActive (s : State) (st : Status) (p : List Byte) :
    (s.respond st p).shActive = s.shActive := rfl
@[simp] theorem respond_shByte (s : State) (st : Status) (p : List Byte) :
    (s.respond st p).shByte = s.shByte := rfl
@[simp] theorem respond_shTick (s : State) (st : Status) (p : List Byte) :
    (s.respond st p).shTick = s.shTick := rfl
@[simp] theorem respond_rstate (s : State) (st : Status) (p : List Byte) :
    (s.respond st p).rstate = s.rstate := rfl
@[simp] theorem respond_rxbuf (s : State) (st : Status) (p : List Byte) :
    (s.respond st p).rxbuf = s.rxbuf := rfl
@[simp] theorem respond_rxpos (s : State) (st : Status) (p : List Byte) :
    (s.respond st p).rxpos = s.rxpos := rfl
@[simp] theorem respond_rxlen (s : State) (st : Status) (p : List Byte) :
    (s.respond st p).rxlen = s.rxlen := rfl
@[simp] theorem respond_rxcnt (s : State) (st : Status) (p : List Byte) :
    (s.respond st p).rxcnt = s.rxcnt := rfl
@[simp] theorem respond_nowUs (s : State) (st : Status) (p : List Byte) :
    (s.respond st p).nowUs = s.nowUs := rfl
@[simp] theorem respond_pendingRst (s : State) (st : Status) (p : List Byte) :
    (s.respond st p).pendingRst = s.pendingRst := rfl
@[simp] theorem respond_inputs (s : State) (st : Status) (p : List Byte) :
    (s.respond st p).inputs = s.inputs := rfl
@[simp] theorem respond_line (s : State) (st : Status) (p : List Byte) :
    (s.respond st p).line = s.line := rfl
@[simp] theorem respond_resp (s : State) (st : Status) (p : List Byte) :
    (s.respond st p).resp = some (responsePacket st p) := rfl

/-! ## `raise` -/

@[simp] theorem raise_params (s : State) (st : Status) :
    (s.raise st).params = s.params := rfl
@[simp] theorem raise_refreshHz (s : State) (st : Status) :
    (s.raise st).refreshHz = s.refreshHz := rfl
@[simp] theorem raise_breakUs (s : State) (st : Status) :
    (s.raise st).breakUs = s.breakUs := rfl
@[simp] theorem raise_mabUs (s : State) (st : Status) :
    (s.raise st).mabUs = s.mabUs := rfl
@[simp] theorem raise_enabled (s : State) (st : Status) :
    (s.raise st).enabled = s.enabled := rfl
@[simp] theorem raise_frameCount (s : State) (st : Status) :
    (s.raise st).frameCount = s.frameCount := rfl
@[simp] theorem raise_fpsX100 (s : State) (st : Status) :
    (s.raise st).fpsX100 = s.fpsX100 := rfl
@[simp] theorem raise_errorCount (s : State) (st : Status) :
    (s.raise st).errorCount = s.errorCount := rfl
@[simp] theorem raise_univ (s : State) (st : Status) :
    (s.raise st).univ = s.univ := rfl
@[simp] theorem raise_frame (s : State) (st : Status) :
    (s.raise st).frame = s.frame := rfl
@[simp] theorem raise_estate (s : State) (st : Status) :
    (s.raise st).estate = s.estate := rfl
@[simp] theorem raise_phaseCnt (s : State) (st : Status) :
    (s.raise st).phaseCnt = s.phaseCnt := rfl
@[simp] theorem raise_latBreak (s : State) (st : Status) :
    (s.raise st).latBreak = s.latBreak := rfl
@[simp] theorem raise_latMab (s : State) (st : Status) :
    (s.raise st).latMab = s.latMab := rfl
@[simp] theorem raise_cursor (s : State) (st : Status) :
    (s.raise st).cursor = s.cursor := rfl
@[simp] theorem raise_lastStart (s : State) (st : Status) :
    (s.raise st).lastStart = s.lastStart := rfl
@[simp] theorem raise_lastStartValid (s : State) (st : Status) :
    (s.raise st).lastStartValid = s.lastStartValid := rfl
@[simp] theorem raise_lastComplete (s : State) (st : Status) :
    (s.raise st).lastComplete = s.lastComplete := rfl
@[simp] theorem raise_winStart (s : State) (st : Status) :
    (s.raise st).winStart = s.winStart := rfl
@[simp] theorem raise_winFrames (s : State) (st : Status) :
    (s.raise st).winFrames = s.winFrames := rfl
@[simp] theorem raise_underrun (s : State) (st : Status) :
    (s.raise st).underrun = s.underrun := rfl
@[simp] theorem raise_fifo (s : State) (st : Status) :
    (s.raise st).fifo = s.fifo := rfl
@[simp] theorem raise_shActive (s : State) (st : Status) :
    (s.raise st).shActive = s.shActive := rfl
@[simp] theorem raise_shByte (s : State) (st : Status) :
    (s.raise st).shByte = s.shByte := rfl
@[simp] theorem raise_shTick (s : State) (st : Status) :
    (s.raise st).shTick = s.shTick := rfl
@[simp] theorem raise_rstate (s : State) (st : Status) :
    (s.raise st).rstate = s.rstate := rfl
@[simp] theorem raise_rxbuf (s : State) (st : Status) :
    (s.raise st).rxbuf = s.rxbuf := rfl
@[simp] theorem raise_rxpos (s : State) (st : Status) :
    (s.raise st).rxpos = s.rxpos := rfl
@[simp] theorem raise_rxlen (s : State) (st : Status) :
    (s.raise st).rxlen = s.rxlen := rfl
@[simp] theorem raise_rxcnt (s : State) (st : Status) :
    (s.raise st).rxcnt = s.rxcnt := rfl
@[simp] theorem raise_nowUs (s : State) (st : Status) :
    (s.raise st).nowUs = s.nowUs := rfl
@[simp] theorem raise_pendingRst (s : State) (st : Status) :
    (s.raise st).pendingRst = s.pendingRst := rfl
@[simp] theorem raise_inputs (s : State) (st : Status) :
    (s.raise st).inputs = s.inputs := rfl
@[simp] theorem raise_line (s : State) (st : Status) :
    (s.raise st).line = s.line := rfl
@[simp] theorem raise_resp (s : State) (st : Status) :
    (s.raise st).resp = some (responsePacket st []) := rfl

/-! ## `toReceiverIdle` -/

@[simp] theorem toReceiverIdle_params (s : State) :
    (s.toReceiverIdle).params = s.params := rfl
@[simp] theorem toReceiverIdle_refreshHz (s : State) :
    (s.toReceiverIdle).refreshHz = s.refreshHz := rfl
@[simp] theorem toReceiverIdle_breakUs (s : State) :
    (s.toReceiverIdle).breakUs = s.breakUs := rfl
@[simp] theorem toReceiverIdle_mabUs (s : State) :
    (s.toReceiverIdle).mabUs = s.mabUs := rfl
@[simp] theorem toReceiverIdle_enabled (s : State) :
    (s.toReceiverIdle).enabled = s.enabled := rfl
@[simp] theorem toReceiverIdle_frameCount (s : State) :
    (s.toReceiverIdle).frameCount = s.frameCount := rfl
@[simp] theorem toReceiverIdle_fpsX100 (s : State) :
    (s.toReceiverIdle).fpsX100 = s.fpsX100 := rfl
@[simp] theorem toReceiverIdle_errorCount (s : State) :
    (s.toReceiverIdle).errorCount = s.errorCount := rfl
@[simp] theorem toReceiverIdle_univ (s : State) :
    (s.toReceiverIdle).univ = s.univ := rfl
@[simp] theorem toReceiverIdle_frame (s : State) :
    (s.toReceiverIdle).frame = s.frame := rfl
@[simp] theorem toReceiverIdle_estate (s : State) :
    (s.toReceiverIdle).estate = s.estate := rfl
@[simp] theorem toReceiverIdle_phaseCnt (s : State) :
    (s.toReceiverIdle).phaseCnt = s.phaseCnt := rfl
@[simp] theorem toReceiverIdle_latBreak (s : State) :
    (s.toReceiverIdle).latBreak = s.latBreak := rfl
@[simp] theorem toReceiverIdle_latMab (s : State) :
    (s.toReceiverIdle).latMab = s.latMab := rfl
@[simp] theorem toReceiverIdle_cursor (s : State) :
    (s.toReceiverIdle).cursor = s.cursor := rfl
@[simp] theorem toReceiverIdle_lastStart (s : State) :
    (s.toReceiverIdle).lastStart = s.lastStart := rfl
@[simp] theorem toReceiverIdle_lastStartValid (s : State) :
    (s.toReceiverIdle).lastStartValid = s.lastStartValid := rfl
@[simp] theorem toReceiverIdle_lastComplete (s : State) :
    (s.toReceiverIdle).lastComplete = s.lastComplete := rfl
@[simp] theorem toReceiverIdle_winStart (s : State) :
    (s.toReceiverIdle).winStart = s.winStart := rfl
@[simp] theorem toReceiverIdle_winFrames (s : State) :
    (s.toReceiverIdle).winFrames = s.winFrames := rfl
@[simp] theorem toReceiverIdle_underrun (s : State) :
    (s.toReceiverIdle).underrun = s.underrun := rfl
@[simp] theorem toReceiverIdle_fifo (s : State) :
    (s.toReceiverIdle).fifo = s.fifo := rfl
@[simp] theorem toReceiverIdle_shActive (s : State) :
    (s.toReceiverIdle).shActive = s.shActive := rfl
@[simp] theorem toReceiverIdle_shByte (s : State) :
    (s.toReceiverIdle).shByte = s.shByte := rfl
@[simp] theorem toReceiverIdle_shTick (s : State) :
    (s.toReceiverIdle).shTick = s.shTick := rfl
@[simp] theorem toReceiverIdle_rstate (s : State) :
    (s.toReceiverIdle).rstate = .idle := rfl
@[simp] theorem toReceiverIdle_rxbuf (s : State) :
    (s.toReceiverIdle).rxbuf = s.rxbuf := rfl
@[simp] theorem toReceiverIdle_rxpos (s : State) :
    (s.toReceiverIdle).rxpos = 0 := rfl
@[simp] theorem toReceiverIdle_rxlen (s : State) :
    (s.toReceiverIdle).rxlen = s.rxlen := rfl
@[simp] theorem toReceiverIdle_rxcnt (s : State) :
    (s.toReceiverIdle).rxcnt = s.rxcnt := rfl
@[simp] theorem toReceiverIdle_nowUs (s : State) :
    (s.toReceiverIdle).nowUs = s.nowUs := rfl
@[simp] theorem toReceiverIdle_pendingRst (s : State) :
    (s.toReceiverIdle).pendingRst = s.pendingRst := rfl
@[simp] theorem toReceiverIdle_inputs (s : State) :
    (s.toReceiverIdle).inputs = s.inputs := rfl
@[simp] theorem toReceiverIdle_line (s : State) :
    (s.toReceiverIdle).line = s.line := rfl
@[simp] theorem toReceiverIdle_resp (s : State) :
    (s.toReceiverIdle).resp = s.resp := rfl

/-! ## `applyReset` -/

@[simp] theorem applyReset_params (s : State) :
    (s.applyReset).params = s.params := rfl
@[simp] theorem applyReset_refreshHz (s : State) :
    (s.applyReset).refreshHz = (State.resetWith s.params).refreshHz := rfl
@[simp] theorem applyReset_breakUs (s : State) :
    (s.applyReset).breakUs = (State.resetWith s.params).breakUs := rfl
@[simp] theorem applyReset_mabUs (s : State) :
    (s.applyReset).mabUs = (State.resetWith s.params).mabUs := rfl
@[simp] theorem applyReset_enabled (s : State) :
    (s.applyReset).enabled = (State.resetWith s.params).enabled := rfl
@[simp] theorem applyReset_frameCount (s : State) :
    (s.applyReset).frameCount = (State.resetWith s.params).frameCount := rfl
@[simp] theorem applyReset_fpsX100 (s : State) :
    (s.applyReset).fpsX100 = (State.resetWith s.params).fpsX100 := rfl
@[simp] theorem applyReset_errorCount (s : State) :
    (s.applyReset).errorCount = (State.resetWith s.params).errorCount := rfl
@[simp] theorem applyReset_univ (s : State) :
    (s.applyReset).univ = (State.resetWith s.params).univ := rfl
@[simp] theorem applyReset_frame (s : State) :
    (s.applyReset).frame = (State.resetWith s.params).frame := rfl
@[simp] theorem applyReset_estate (s : State) :
    (s.applyReset).estate = (State.resetWith s.params).estate := rfl
@[simp] theorem applyReset_phaseCnt (s : State) :
    (s.applyReset).phaseCnt = (State.resetWith s.params).phaseCnt := rfl
@[simp] theorem applyReset_latBreak (s : State) :
    (s.applyReset).latBreak = (State.resetWith s.params).latBreak := rfl
@[simp] theorem applyReset_latMab (s : State) :
    (s.applyReset).latMab = (State.resetWith s.params).latMab := rfl
@[simp] theorem applyReset_cursor (s : State) :
    (s.applyReset).cursor = (State.resetWith s.params).cursor := rfl
@[simp] theorem applyReset_lastStart (s : State) :
    (s.applyReset).lastStart = (State.resetWith s.params).lastStart := rfl
@[simp] theorem applyReset_lastStartValid (s : State) :
    (s.applyReset).lastStartValid = (State.resetWith s.params).lastStartValid := rfl
@[simp] theorem applyReset_lastComplete (s : State) :
    (s.applyReset).lastComplete = (State.resetWith s.params).lastComplete := rfl
@[simp] theorem applyReset_winStart (s : State) :
    (s.applyReset).winStart = (State.resetWith s.params).winStart := rfl
@[simp] theorem applyReset_winFrames (s : State) :
    (s.applyReset).winFrames = (State.resetWith s.params).winFrames := rfl
@[simp] theorem applyReset_underrun (s : State) :
    (s.applyReset).underrun = (State.resetWith s.params).underrun := rfl
@[simp] theorem applyReset_fifo (s : State) :
    (s.applyReset).fifo = (State.resetWith s.params).fifo := rfl
@[simp] theorem applyReset_shActive (s : State) :
    (s.applyReset).shActive = (State.resetWith s.params).shActive := rfl
@[simp] theorem applyReset_shByte (s : State) :
    (s.applyReset).shByte = (State.resetWith s.params).shByte := rfl
@[simp] theorem applyReset_shTick (s : State) :
    (s.applyReset).shTick = (State.resetWith s.params).shTick := rfl
@[simp] theorem applyReset_rstate (s : State) :
    (s.applyReset).rstate = (State.resetWith s.params).rstate := rfl
@[simp] theorem applyReset_rxbuf (s : State) :
    (s.applyReset).rxbuf = (State.resetWith s.params).rxbuf := rfl
@[simp] theorem applyReset_rxpos (s : State) :
    (s.applyReset).rxpos = (State.resetWith s.params).rxpos := rfl
@[simp] theorem applyReset_rxlen (s : State) :
    (s.applyReset).rxlen = (State.resetWith s.params).rxlen := rfl
@[simp] theorem applyReset_rxcnt (s : State) :
    (s.applyReset).rxcnt = (State.resetWith s.params).rxcnt := rfl
@[simp] theorem applyReset_nowUs (s : State) :
    (s.applyReset).nowUs = (State.resetWith s.params).nowUs := rfl
@[simp] theorem applyReset_pendingRst (s : State) :
    (s.applyReset).pendingRst = (State.resetWith s.params).pendingRst := rfl
@[simp] theorem applyReset_inputs (s : State) :
    (s.applyReset).inputs = s.inputs := rfl
@[simp] theorem applyReset_line (s : State) :
    (s.applyReset).line = (State.resetWith s.params).line := rfl
@[simp] theorem applyReset_resp (s : State) :
    (s.applyReset).resp = (State.resetWith s.params).resp := rfl

/-! ## `storeRx` -/

@[simp] theorem storeRx_params (s : State) (b : Byte) :
    (s.storeRx b).params = s.params := rfl
@[simp] theorem storeRx_refreshHz (s : State) (b : Byte) :
    (s.storeRx b).refreshHz = s.refreshHz := rfl
@[simp] theorem storeRx_breakUs (s : State) (b : Byte) :
    (s.storeRx b).breakUs = s.breakUs := rfl
@[simp] theorem storeRx_mabUs (s : State) (b : Byte) :
    (s.storeRx b).mabUs = s.mabUs := rfl
@[simp] theorem storeRx_enabled (s : State) (b : Byte) :
    (s.storeRx b).enabled = s.enabled := rfl
@[simp] theorem storeRx_frameCount (s : State) (b : Byte) :
    (s.storeRx b).frameCount = s.frameCount := rfl
@[simp] theorem storeRx_fpsX100 (s : State) (b : Byte) :
    (s.storeRx b).fpsX100 = s.fpsX100 := rfl
@[simp] theorem storeRx_errorCount (s : State) (b : Byte) :
    (s.storeRx b).errorCount = s.errorCount := rfl
@[simp] theorem storeRx_univ (s : State) (b : Byte) :
    (s.storeRx b).univ = s.univ := rfl
@[simp] theorem storeRx_frame (s : State) (b : Byte) :
    (s.storeRx b).frame = s.frame := rfl
@[simp] theorem storeRx_estate (s : State) (b : Byte) :
    (s.storeRx b).estate = s.estate := rfl
@[simp] theorem storeRx_phaseCnt (s : State) (b : Byte) :
    (s.storeRx b).phaseCnt = s.phaseCnt := rfl
@[simp] theorem storeRx_latBreak (s : State) (b : Byte) :
    (s.storeRx b).latBreak = s.latBreak := rfl
@[simp] theorem storeRx_latMab (s : State) (b : Byte) :
    (s.storeRx b).latMab = s.latMab := rfl
@[simp] theorem storeRx_cursor (s : State) (b : Byte) :
    (s.storeRx b).cursor = s.cursor := rfl
@[simp] theorem storeRx_lastStart (s : State) (b : Byte) :
    (s.storeRx b).lastStart = s.lastStart := rfl
@[simp] theorem storeRx_lastStartValid (s : State) (b : Byte) :
    (s.storeRx b).lastStartValid = s.lastStartValid := rfl
@[simp] theorem storeRx_lastComplete (s : State) (b : Byte) :
    (s.storeRx b).lastComplete = s.lastComplete := rfl
@[simp] theorem storeRx_winStart (s : State) (b : Byte) :
    (s.storeRx b).winStart = s.winStart := rfl
@[simp] theorem storeRx_winFrames (s : State) (b : Byte) :
    (s.storeRx b).winFrames = s.winFrames := rfl
@[simp] theorem storeRx_underrun (s : State) (b : Byte) :
    (s.storeRx b).underrun = s.underrun := rfl
@[simp] theorem storeRx_fifo (s : State) (b : Byte) :
    (s.storeRx b).fifo = s.fifo := rfl
@[simp] theorem storeRx_shActive (s : State) (b : Byte) :
    (s.storeRx b).shActive = s.shActive := rfl
@[simp] theorem storeRx_shByte (s : State) (b : Byte) :
    (s.storeRx b).shByte = s.shByte := rfl
@[simp] theorem storeRx_shTick (s : State) (b : Byte) :
    (s.storeRx b).shTick = s.shTick := rfl
@[simp] theorem storeRx_rstate (s : State) (b : Byte) :
    (s.storeRx b).rstate = s.rstate := rfl
@[simp] theorem storeRx_rxbuf (s : State) (b : Byte) :
    (s.storeRx b).rxbuf = Memory.set s.rxbuf s.rxpos.toNat b := rfl
@[simp] theorem storeRx_rxpos (s : State) (b : Byte) :
    (s.storeRx b).rxpos = s.rxpos + 1 := rfl
@[simp] theorem storeRx_rxlen (s : State) (b : Byte) :
    (s.storeRx b).rxlen = s.rxlen := rfl
@[simp] theorem storeRx_rxcnt (s : State) (b : Byte) :
    (s.storeRx b).rxcnt = s.rxcnt := rfl
@[simp] theorem storeRx_nowUs (s : State) (b : Byte) :
    (s.storeRx b).nowUs = s.nowUs := rfl
@[simp] theorem storeRx_pendingRst (s : State) (b : Byte) :
    (s.storeRx b).pendingRst = s.pendingRst := rfl
@[simp] theorem storeRx_inputs (s : State) (b : Byte) :
    (s.storeRx b).inputs = s.inputs := rfl
@[simp] theorem storeRx_line (s : State) (b : Byte) :
    (s.storeRx b).line = s.line := rfl
@[simp] theorem storeRx_resp (s : State) (b : Byte) :
    (s.storeRx b).resp = s.resp := rfl

/-! ## `storeHeader` -/

@[simp] theorem storeHeader_params (s : State) (k : Nat) (b : Byte) :
    (s.storeHeader k b).params = s.params := rfl
@[simp] theorem storeHeader_refreshHz (s : State) (k : Nat) (b : Byte) :
    (s.storeHeader k b).refreshHz = s.refreshHz := rfl
@[simp] theorem storeHeader_breakUs (s : State) (k : Nat) (b : Byte) :
    (s.storeHeader k b).breakUs = s.breakUs := rfl
@[simp] theorem storeHeader_mabUs (s : State) (k : Nat) (b : Byte) :
    (s.storeHeader k b).mabUs = s.mabUs := rfl
@[simp] theorem storeHeader_enabled (s : State) (k : Nat) (b : Byte) :
    (s.storeHeader k b).enabled = s.enabled := rfl
@[simp] theorem storeHeader_frameCount (s : State) (k : Nat) (b : Byte) :
    (s.storeHeader k b).frameCount = s.frameCount := rfl
@[simp] theorem storeHeader_fpsX100 (s : State) (k : Nat) (b : Byte) :
    (s.storeHeader k b).fpsX100 = s.fpsX100 := rfl
@[simp] theorem storeHeader_errorCount (s : State) (k : Nat) (b : Byte) :
    (s.storeHeader k b).errorCount = s.errorCount := rfl
@[simp] theorem storeHeader_univ (s : State) (k : Nat) (b : Byte) :
    (s.storeHeader k b).univ = s.univ := rfl
@[simp] theorem storeHeader_frame (s : State) (k : Nat) (b : Byte) :
    (s.storeHeader k b).frame = s.frame := rfl
@[simp] theorem storeHeader_estate (s : State) (k : Nat) (b : Byte) :
    (s.storeHeader k b).estate = s.estate := rfl
@[simp] theorem storeHeader_phaseCnt (s : State) (k : Nat) (b : Byte) :
    (s.storeHeader k b).phaseCnt = s.phaseCnt := rfl
@[simp] theorem storeHeader_latBreak (s : State) (k : Nat) (b : Byte) :
    (s.storeHeader k b).latBreak = s.latBreak := rfl
@[simp] theorem storeHeader_latMab (s : State) (k : Nat) (b : Byte) :
    (s.storeHeader k b).latMab = s.latMab := rfl
@[simp] theorem storeHeader_cursor (s : State) (k : Nat) (b : Byte) :
    (s.storeHeader k b).cursor = s.cursor := rfl
@[simp] theorem storeHeader_lastStart (s : State) (k : Nat) (b : Byte) :
    (s.storeHeader k b).lastStart = s.lastStart := rfl
@[simp] theorem storeHeader_lastStartValid (s : State) (k : Nat) (b : Byte) :
    (s.storeHeader k b).lastStartValid = s.lastStartValid := rfl
@[simp] theorem storeHeader_lastComplete (s : State) (k : Nat) (b : Byte) :
    (s.storeHeader k b).lastComplete = s.lastComplete := rfl
@[simp] theorem storeHeader_winStart (s : State) (k : Nat) (b : Byte) :
    (s.storeHeader k b).winStart = s.winStart := rfl
@[simp] theorem storeHeader_winFrames (s : State) (k : Nat) (b : Byte) :
    (s.storeHeader k b).winFrames = s.winFrames := rfl
@[simp] theorem storeHeader_underrun (s : State) (k : Nat) (b : Byte) :
    (s.storeHeader k b).underrun = s.underrun := rfl
@[simp] theorem storeHeader_fifo (s : State) (k : Nat) (b : Byte) :
    (s.storeHeader k b).fifo = s.fifo := rfl
@[simp] theorem storeHeader_shActive (s : State) (k : Nat) (b : Byte) :
    (s.storeHeader k b).shActive = s.shActive := rfl
@[simp] theorem storeHeader_shByte (s : State) (k : Nat) (b : Byte) :
    (s.storeHeader k b).shByte = s.shByte := rfl
@[simp] theorem storeHeader_shTick (s : State) (k : Nat) (b : Byte) :
    (s.storeHeader k b).shTick = s.shTick := rfl
@[simp] theorem storeHeader_rstate (s : State) (k : Nat) (b : Byte) :
    (s.storeHeader k b).rstate = s.rstate := rfl
@[simp] theorem storeHeader_rxbuf (s : State) (k : Nat) (b : Byte) :
    (s.storeHeader k b).rxbuf = Memory.set s.rxbuf k b := rfl
@[simp] theorem storeHeader_rxpos (s : State) (k : Nat) (b : Byte) :
    (s.storeHeader k b).rxpos = BitVec.ofNat 11 (k + 1) := rfl
@[simp] theorem storeHeader_rxlen (s : State) (k : Nat) (b : Byte) :
    (s.storeHeader k b).rxlen = s.rxlen := rfl
@[simp] theorem storeHeader_rxcnt (s : State) (k : Nat) (b : Byte) :
    (s.storeHeader k b).rxcnt = s.rxcnt := rfl
@[simp] theorem storeHeader_nowUs (s : State) (k : Nat) (b : Byte) :
    (s.storeHeader k b).nowUs = s.nowUs := rfl
@[simp] theorem storeHeader_pendingRst (s : State) (k : Nat) (b : Byte) :
    (s.storeHeader k b).pendingRst = s.pendingRst := rfl
@[simp] theorem storeHeader_inputs (s : State) (k : Nat) (b : Byte) :
    (s.storeHeader k b).inputs = s.inputs := rfl
@[simp] theorem storeHeader_line (s : State) (k : Nat) (b : Byte) :
    (s.storeHeader k b).line = s.line := rfl
@[simp] theorem storeHeader_resp (s : State) (k : Nat) (b : Byte) :
    (s.storeHeader k b).resp = s.resp := rfl

/-! ## `frameStart` -/

@[simp] theorem frameStart_params (s : State) :
    (frameStart s).params = s.params := rfl
@[simp] theorem frameStart_refreshHz (s : State) :
    (frameStart s).refreshHz = s.refreshHz := rfl
@[simp] theorem frameStart_breakUs (s : State) :
    (frameStart s).breakUs = s.breakUs := rfl
@[simp] theorem frameStart_mabUs (s : State) :
    (frameStart s).mabUs = s.mabUs := rfl
@[simp] theorem frameStart_enabled (s : State) :
    (frameStart s).enabled = s.enabled := rfl
@[simp] theorem frameStart_frameCount (s : State) :
    (frameStart s).frameCount = s.frameCount := rfl
@[simp] theorem frameStart_fpsX100 (s : State) :
    (frameStart s).fpsX100 = s.fpsX100 := rfl
@[simp] theorem frameStart_errorCount (s : State) :
    (frameStart s).errorCount = s.errorCount := rfl
@[simp] theorem frameStart_univ (s : State) :
    (frameStart s).univ = s.univ := rfl
@[simp] theorem frameStart_frame (s : State) :
    (frameStart s).frame = snapshot s.univ := rfl
@[simp] theorem frameStart_estate (s : State) :
    (frameStart s).estate = .brk := rfl
@[simp] theorem frameStart_phaseCnt (s : State) :
    (frameStart s).phaseCnt = s.breakUs := rfl
@[simp] theorem frameStart_latBreak (s : State) :
    (frameStart s).latBreak = s.breakUs := rfl
@[simp] theorem frameStart_latMab (s : State) :
    (frameStart s).latMab = s.mabUs := rfl
@[simp] theorem frameStart_cursor (s : State) :
    (frameStart s).cursor = s.cursor := rfl
@[simp] theorem frameStart_lastStart (s : State) :
    (frameStart s).lastStart = s.nowUs := rfl
@[simp] theorem frameStart_lastStartValid (s : State) :
    (frameStart s).lastStartValid = true := rfl
@[simp] theorem frameStart_lastComplete (s : State) :
    (frameStart s).lastComplete = s.lastComplete := rfl
@[simp] theorem frameStart_winStart (s : State) :
    (frameStart s).winStart = s.winStart := rfl
@[simp] theorem frameStart_winFrames (s : State) :
    (frameStart s).winFrames = s.winFrames := rfl
@[simp] theorem frameStart_underrun (s : State) :
    (frameStart s).underrun = s.underrun := rfl
@[simp] theorem frameStart_fifo (s : State) :
    (frameStart s).fifo = s.fifo := rfl
@[simp] theorem frameStart_shActive (s : State) :
    (frameStart s).shActive = s.shActive := rfl
@[simp] theorem frameStart_shByte (s : State) :
    (frameStart s).shByte = s.shByte := rfl
@[simp] theorem frameStart_shTick (s : State) :
    (frameStart s).shTick = s.shTick := rfl
@[simp] theorem frameStart_rstate (s : State) :
    (frameStart s).rstate = s.rstate := rfl
@[simp] theorem frameStart_rxbuf (s : State) :
    (frameStart s).rxbuf = s.rxbuf := rfl
@[simp] theorem frameStart_rxpos (s : State) :
    (frameStart s).rxpos = s.rxpos := rfl
@[simp] theorem frameStart_rxlen (s : State) :
    (frameStart s).rxlen = s.rxlen := rfl
@[simp] theorem frameStart_rxcnt (s : State) :
    (frameStart s).rxcnt = s.rxcnt := rfl
@[simp] theorem frameStart_nowUs (s : State) :
    (frameStart s).nowUs = s.nowUs := rfl
@[simp] theorem frameStart_pendingRst (s : State) :
    (frameStart s).pendingRst = s.pendingRst := rfl
@[simp] theorem frameStart_inputs (s : State) :
    (frameStart s).inputs = s.inputs := rfl
@[simp] theorem frameStart_line (s : State) :
    (frameStart s).line = s.line := rfl
@[simp] theorem frameStart_resp (s : State) :
    (frameStart s).resp = s.resp := rfl

/-! ## `beginTick` -/

@[simp] theorem beginTick_params (s : State) :
    (s.beginTick).params = s.params := rfl
@[simp] theorem beginTick_refreshHz (s : State) :
    (s.beginTick).refreshHz = s.refreshHz := rfl
@[simp] theorem beginTick_breakUs (s : State) :
    (s.beginTick).breakUs = s.breakUs := rfl
@[simp] theorem beginTick_mabUs (s : State) :
    (s.beginTick).mabUs = s.mabUs := rfl
@[simp] theorem beginTick_enabled (s : State) :
    (s.beginTick).enabled = s.enabled := rfl
@[simp] theorem beginTick_frameCount (s : State) :
    (s.beginTick).frameCount = s.frameCount := rfl
@[simp] theorem beginTick_fpsX100 (s : State) :
    (s.beginTick).fpsX100 = s.fpsX100 := rfl
@[simp] theorem beginTick_errorCount (s : State) :
    (s.beginTick).errorCount = s.errorCount := rfl
@[simp] theorem beginTick_univ (s : State) :
    (s.beginTick).univ = s.univ := rfl
@[simp] theorem beginTick_frame (s : State) :
    (s.beginTick).frame = s.frame := rfl
@[simp] theorem beginTick_estate (s : State) :
    (s.beginTick).estate = s.estate := rfl
@[simp] theorem beginTick_phaseCnt (s : State) :
    (s.beginTick).phaseCnt = s.phaseCnt := rfl
@[simp] theorem beginTick_latBreak (s : State) :
    (s.beginTick).latBreak = s.latBreak := rfl
@[simp] theorem beginTick_latMab (s : State) :
    (s.beginTick).latMab = s.latMab := rfl
@[simp] theorem beginTick_cursor (s : State) :
    (s.beginTick).cursor = s.cursor := rfl
@[simp] theorem beginTick_lastStart (s : State) :
    (s.beginTick).lastStart = s.lastStart := rfl
@[simp] theorem beginTick_lastStartValid (s : State) :
    (s.beginTick).lastStartValid = s.lastStartValid := rfl
@[simp] theorem beginTick_lastComplete (s : State) :
    (s.beginTick).lastComplete = s.lastComplete := rfl
@[simp] theorem beginTick_winStart (s : State) :
    (s.beginTick).winStart = s.winStart := rfl
@[simp] theorem beginTick_winFrames (s : State) :
    (s.beginTick).winFrames = s.winFrames := rfl
@[simp] theorem beginTick_underrun (s : State) :
    (s.beginTick).underrun = s.underrun := rfl
@[simp] theorem beginTick_fifo (s : State) :
    (s.beginTick).fifo = s.fifo := rfl
@[simp] theorem beginTick_shActive (s : State) :
    (s.beginTick).shActive = s.shActive := rfl
@[simp] theorem beginTick_shByte (s : State) :
    (s.beginTick).shByte = s.shByte := rfl
@[simp] theorem beginTick_shTick (s : State) :
    (s.beginTick).shTick = s.shTick := rfl
@[simp] theorem beginTick_rstate (s : State) :
    (s.beginTick).rstate = s.rstate := rfl
@[simp] theorem beginTick_rxbuf (s : State) :
    (s.beginTick).rxbuf = s.rxbuf := rfl
@[simp] theorem beginTick_rxpos (s : State) :
    (s.beginTick).rxpos = s.rxpos := rfl
@[simp] theorem beginTick_rxlen (s : State) :
    (s.beginTick).rxlen = s.rxlen := rfl
@[simp] theorem beginTick_rxcnt (s : State) :
    (s.beginTick).rxcnt = s.rxcnt := rfl
@[simp] theorem beginTick_nowUs (s : State) :
    (s.beginTick).nowUs = s.nowUs := rfl
@[simp] theorem beginTick_pendingRst (s : State) :
    (s.beginTick).pendingRst = s.pendingRst := rfl
@[simp] theorem beginTick_inputs (s : State) :
    (s.beginTick).inputs = s.inputs.tail := rfl
@[simp] theorem beginTick_line (s : State) :
    (s.beginTick).line = s.line := rfl
@[simp] theorem beginTick_resp (s : State) :
    (s.beginTick).resp = none := rfl

/-! ## `endTick` -/

@[simp] theorem endTick_params (s : State) :
    (s.endTick).params = s.params := rfl
@[simp] theorem endTick_refreshHz (s : State) :
    (s.endTick).refreshHz = s.refreshHz := rfl
@[simp] theorem endTick_breakUs (s : State) :
    (s.endTick).breakUs = s.breakUs := rfl
@[simp] theorem endTick_mabUs (s : State) :
    (s.endTick).mabUs = s.mabUs := rfl
@[simp] theorem endTick_enabled (s : State) :
    (s.endTick).enabled = s.enabled := rfl
@[simp] theorem endTick_frameCount (s : State) :
    (s.endTick).frameCount = s.frameCount := rfl
@[simp] theorem endTick_fpsX100 (s : State) :
    (s.endTick).fpsX100 = s.fpsX100 := rfl
@[simp] theorem endTick_errorCount (s : State) :
    (s.endTick).errorCount = s.errorCount := rfl
@[simp] theorem endTick_univ (s : State) :
    (s.endTick).univ = s.univ := rfl
@[simp] theorem endTick_frame (s : State) :
    (s.endTick).frame = s.frame := rfl
@[simp] theorem endTick_estate (s : State) :
    (s.endTick).estate = s.estate := rfl
@[simp] theorem endTick_phaseCnt (s : State) :
    (s.endTick).phaseCnt = s.phaseCnt := rfl
@[simp] theorem endTick_latBreak (s : State) :
    (s.endTick).latBreak = s.latBreak := rfl
@[simp] theorem endTick_latMab (s : State) :
    (s.endTick).latMab = s.latMab := rfl
@[simp] theorem endTick_cursor (s : State) :
    (s.endTick).cursor = s.cursor := rfl
@[simp] theorem endTick_lastStart (s : State) :
    (s.endTick).lastStart = s.lastStart := rfl
@[simp] theorem endTick_lastStartValid (s : State) :
    (s.endTick).lastStartValid = s.lastStartValid := rfl
@[simp] theorem endTick_lastComplete (s : State) :
    (s.endTick).lastComplete = s.lastComplete := rfl
@[simp] theorem endTick_winStart (s : State) :
    (s.endTick).winStart = s.winStart := rfl
@[simp] theorem endTick_winFrames (s : State) :
    (s.endTick).winFrames = s.winFrames := rfl
@[simp] theorem endTick_underrun (s : State) :
    (s.endTick).underrun = s.underrun := rfl
@[simp] theorem endTick_fifo (s : State) :
    (s.endTick).fifo = s.fifo := rfl
@[simp] theorem endTick_shActive (s : State) :
    (s.endTick).shActive = s.shActive := rfl
@[simp] theorem endTick_shByte (s : State) :
    (s.endTick).shByte = s.shByte := rfl
@[simp] theorem endTick_shTick (s : State) :
    (s.endTick).shTick = s.shTick := rfl
@[simp] theorem endTick_rstate (s : State) :
    (s.endTick).rstate = s.rstate := rfl
@[simp] theorem endTick_rxbuf (s : State) :
    (s.endTick).rxbuf = s.rxbuf := rfl
@[simp] theorem endTick_rxpos (s : State) :
    (s.endTick).rxpos = s.rxpos := rfl
@[simp] theorem endTick_rxlen (s : State) :
    (s.endTick).rxlen = s.rxlen := rfl
@[simp] theorem endTick_rxcnt (s : State) :
    (s.endTick).rxcnt = s.rxcnt := rfl
@[simp] theorem endTick_nowUs (s : State) :
    (s.endTick).nowUs = nextTick s.nowUs := rfl
@[simp] theorem endTick_pendingRst (s : State) :
    (s.endTick).pendingRst = s.pendingRst := rfl
@[simp] theorem endTick_inputs (s : State) :
    (s.endTick).inputs = s.inputs := rfl
@[simp] theorem endTick_line (s : State) :
    (s.endTick).line = s.line := rfl
@[simp] theorem endTick_resp (s : State) :
    (s.endTick).resp = s.resp := rfl

end Sys2Proof.Machine
end

