-- ==== Sys2Proof/Laws/Phases.lean ====
section
/-! SUPPORT. What each phase of a tick can do: one lemma per shared operation, so that no proof unfolds it again. -/

namespace Sys2Proof.Machine

/-! ## `andThen` -/

theorem andThen_eq_next {o : Result} {f : State → State} {t : State} (h : andThen o f = .next t) :
    ∃ u, o = .next u ∧ t = f u := by
  cases o with
  | next u => exact ⟨u, rfl, by simpa [andThen] using h.symm⟩
  | fault r => simp [andThen] at h
  | refused r => simp [andThen] at h

@[simp] theorem andThen_next (s : State) (f : State → State) : andThen (.next s) f = .next (f s) := rfl

/-! ## Dispatch -/

/-- What an operation can write: UNIV, the timing registers, ENABLED, the counters ENABLE clears, PENDING_RST and the
response (R49). -/
def opWrites (s t : State) : State :=
  { s with
    univ := t.univ, refreshHz := t.refreshHz, breakUs := t.breakUs, mabUs := t.mabUs,
    enabled := t.enabled, frameCount := t.frameCount, fpsX100 := t.fpsX100, winFrames := t.winFrames,
    winStart := t.winStart, pendingRst := t.pendingRst, resp := t.resp }

/-- Every operation answers a next state, and writes nothing but what `opWrites` lists. -/
theorem exec_total (i : Instr) (s : State) : ∃ t, exec i s = .next t ∧ t = opWrites s t := by
  cases i with
  | setChannels op =>
    cases op with
    | short p => exact ⟨_, rfl, rfl⟩
    | run start values =>
      simp only [exec, execSetChannels]
      split_ifs
      · exact ⟨_, rfl, rfl⟩
      · exact ⟨_, rfl, rfl⟩
  | getStatus _ => exact ⟨_, rfl, rfl⟩
  | enable _ => exact ⟨_, rfl, rfl⟩
  | disable _ => exact ⟨_, rfl, rfl⟩
  | blackout _ =>
    simp only [exec, execBlackout]
    generalize Memory.setRun s.univ 0 _ = m
    exact ⟨_, rfl, rfl⟩
  | setTiming op =>
    cases op with
    | badLength p => exact ⟨_, rfl, rfl⟩
    | fields r b m =>
      simp only [exec, execSetTiming]
      split_ifs
      · exact ⟨_, rfl, rfl⟩
      · exact ⟨_, rfl, rfl⟩
  | getTiming _ => exact ⟨_, rfl, rfl⟩
  | systemReset op =>
    simp only [exec, execSystemReset]
    split_ifs
    · cases op with
      | badLength p => exact ⟨_, rfl, rfl⟩
      | guard m =>
        simp only
        split_ifs
        · exact ⟨_, rfl, rfl⟩
        · exact ⟨_, rfl, rfl⟩
    · exact ⟨_, rfl, rfl⟩
  | reserved _ _ => exact ⟨_, rfl, rfl⟩

theorem exec_eq_opWrites {i : Instr} {s t : State} (h : exec i s = .next t) : t = opWrites s t := by
  obtain ⟨u, hu, hw⟩ := exec_total i s
  rw [hu, Host.Outcome.next.injEq] at h
  exact h ▸ hw

/-! ## The sequencer and the serializer -/

/-- What the sequencer can write (42_sequencer.md). -/
def seqWrites (s t : State) : State :=
  { s with
    frameCount := t.frameCount, fpsX100 := t.fpsX100, errorCount := t.errorCount, frame := t.frame,
    estate := t.estate, phaseCnt := t.phaseCnt, latBreak := t.latBreak, latMab := t.latMab,
    cursor := t.cursor, lastStart := t.lastStart, lastStartValid := t.lastStartValid,
    lastComplete := t.lastComplete, winStart := t.winStart, winFrames := t.winFrames,
    underrun := t.underrun, fifo := t.fifo }

theorem frameComplete_eq_seqWrites (s : State) : frameComplete s = seqWrites s (frameComplete s) := by
  simp only [frameComplete, frameEnd, fpsSample]
  split_ifs <;> rfl

theorem dataPush_eq_seqWrites (entry : Bool) (s : State) : dataPush entry s = seqWrites s (dataPush entry s) := by
  simp only [dataPush]
  split_ifs
  · rw [frameComplete_eq_seqWrites]; rfl
  · rfl

theorem sequencerStep_eq_seqWrites (s : State) : sequencerStep s = seqWrites s (sequencerStep s) := by
  unfold sequencerStep
  split
  · split_ifs <;> rfl
  · split_ifs <;> rfl
  · split_ifs
    · rfl
    · rw [dataPush_eq_seqWrites]; rfl
  · exact dataPush_eq_seqWrites false s

/-- What the serializer can write (43_serializer.md R180). -/
def serWrites (s t : State) : State :=
  { s with fifo := t.fifo, shActive := t.shActive, shByte := t.shByte, shTick := t.shTick, line := t.line }

theorem loadSlot_eq_serWrites (s : State) : loadSlot s = serWrites s (loadSlot s) := by
  unfold loadSlot
  split_ifs
  · rfl
  · split <;> rfl

theorem shiftSlot_eq_serWrites (s : State) : shiftSlot s = serWrites s (shiftSlot s) := by
  unfold shiftSlot
  split_ifs <;> rfl

theorem serializerStep_eq_serWrites (s : State) : serializerStep s = serWrites s (serializerStep s) := by
  unfold serializerStep
  split
  · rfl
  · rfl
  · rw [shiftSlot_eq_serWrites, loadSlot_eq_serWrites]; rfl
  · rw [shiftSlot_eq_serWrites, loadSlot_eq_serWrites]; rfl

@[simp] theorem serializerStep_estate (s : State) : (serializerStep s).estate = s.estate := by
  rw [serializerStep_eq_serWrites]; rfl

/-! ## The FIFO fill -/

/-- The `while` loop of R159 in closed form: it pushes as many bytes as the queue has room for and the frame has left. -/
theorem fillFifo_eq (frame : Memory) (depth fuel : Nat) (cursor : BitVec 10) (fifo : List Byte)
    (hfuel : Config.frameLen - cursor.toNat ≤ fuel) :
    fillFifo frame depth fuel cursor fifo =
      (cursor + BitVec.ofNat 10 (min (Config.frameLen - cursor.toNat) (depth - fifo.length)),
        fifo ++ Memory.slice frame cursor.toNat (min (Config.frameLen - cursor.toNat) (depth - fifo.length))) := by
  induction fuel generalizing cursor fifo with
  | zero =>
    have h0 : Config.frameLen - cursor.toNat = 0 := Nat.le_zero.mp hfuel
    simp [fillFifo, h0, Memory.slice]
  | succ fuel ih =>
    rw [fillFifo]
    split_ifs with h
    · obtain ⟨h1, h2⟩ := h
      have hc : (cursor + 1).toNat = cursor.toNat + 1 := by
        have : cursor.toNat < 513 := h1
        simp [BitVec.toNat_add]; omega
      rw [ih _ _ (by omega)]
      have hmin : min (Config.frameLen - cursor.toNat) (depth - fifo.length) =
          min (Config.frameLen - (cursor + 1).toNat) (depth - (fifo ++ [Memory.get frame cursor.toNat]).length) + 1 := by
        simp only [hc, List.length_append, List.length_singleton]; omega
      rw [hmin]
      refine Prod.ext ?_ ?_
      · simp only [BitVec.add_assoc]
        congr 1
        rw [BitVec.ofNat_add, BitVec.add_comm]; rfl
      · simp only [Memory.slice, List.append_assoc, hc]
        rw [List.range_succ_eq_map, List.map_cons, List.map_map]
        simp [Function.comp_def, Nat.add_assoc, Nat.add_comm 1]
    · have h0 : min (Config.frameLen - cursor.toNat) (depth - fifo.length) = 0 := by omega
      simp [h0, Memory.slice]

/-- The cursor after the fill, as a number. -/
theorem fillFifo_cursor (frame : Memory) (depth : Nat) (cursor : BitVec 10) (fifo : List Byte)
    (hc : cursor.toNat ≤ Config.frameLen) :
    (fillFifo frame depth Config.frameLen cursor fifo).1.toNat =
      cursor.toNat + min (Config.frameLen - cursor.toNat) (depth - fifo.length) := by
  rw [fillFifo_eq _ _ _ _ _ (by omega)]
  have h : Config.frameLen = 513 := rfl
  simp only [BitVec.toNat_add, BitVec.toNat_ofNat]
  omega

/-- The length of the queue after the fill. -/
theorem fillFifo_length (frame : Memory) (depth : Nat) (cursor : BitVec 10) (fifo : List Byte) :
    (fillFifo frame depth Config.frameLen cursor fifo).2.length =
      fifo.length + min (Config.frameLen - cursor.toNat) (depth - fifo.length) := by
  rw [fillFifo_eq _ _ _ _ _ (by omega)]
  simp [Memory.slice]

/-! ## The receiver -/

/-- What phase 1 can write: what an operation can, and the receiver's own state. -/
def portWrites (s t : State) : State :=
  { opWrites s t with rstate := t.rstate, rxbuf := t.rxbuf, rxpos := t.rxpos, rxlen := t.rxlen, rxcnt := t.rxcnt }

theorem validateAndDispatch_eq_portWrites {b : Byte} {s t : State} (h : validateAndDispatch b s = .next t) :
    t = portWrites s t := by
  unfold validateAndDispatch at h
  split_ifs at h
  · cases h; rfl
  · have := exec_eq_opWrites h
    rw [this]; rfl

theorem receiverStep_eq_portWrites {b : Byte} {s t : State} (h : receiverStep b s = .next t) :
    t = portWrites s t := by
  unfold receiverStep at h
  split at h
  · cases h; split_ifs <;> rfl
  · cases h; rfl
  · cases h; rfl
  · cases h; simp only [receiveLenHi]; split_ifs <;> rfl
  · split_ifs at h; cases h; simp only [receiveData]; split_ifs <;> rfl
  · split_ifs at h
    obtain ⟨u, hu, rfl⟩ := andThen_eq_next h
    rw [validateAndDispatch_eq_portWrites hu]; rfl

theorem commandPort_eq_portWrites {rx : Option Byte} {s t : State} (h : commandPort rx s = .next t) :
    t = portWrites s t := by
  cases rx with
  | none => cases h; rfl
  | some b => exact receiverStep_eq_portWrites h

/-! ## The tick -/

/-- The two kinds of tick: a reset tick, or phases 1 to 3. -/
theorem step_cases {s t : State} (h : step s = .next t) :
    (s.resetNow = true ∧ t = s.beginTick.applyReset) ∨
      (s.resetNow = false ∧ ∃ u, commandPort s.portInput.rx s.beginTick = .next u ∧ t = u.finishTick) := by
  unfold step tick at h
  split_ifs at h with hr
  · cases h; exact .inl ⟨hr, rfl⟩
  · obtain ⟨u, hu, rfl⟩ := andThen_eq_next h
    exact .inr ⟨by simpa using hr, u, hu, rfl⟩

end Sys2Proof.Machine
end

