-- ==== Sys2Proof/Laws/Operations.lean ====
section
/-! SUPPORT. Each branch of the operations that test their operands, as one equation, and the bytes of the responses. -/

namespace Sys2Proof.Machine

theorem runInRange_iff (start : Half) (values : List Byte) :
    runInRange start values = true ↔ start.toNat + values.length ≤ 512 := by
  rw [runInRange, decide_eq_true_eq, Config.universeSize]

theorem fieldOk_iff (v : Half) (lo hi : Nat) :
    fieldOk v lo hi = true ↔ v = 0 ∨ lo ≤ v.toNat ∧ v.toNat ≤ hi := by
  rw [fieldOk, Bool.or_eq_true, beq_iff_eq, Bool.and_eq_true, decide_eq_true_eq, decide_eq_true_eq]

theorem timingOk_iff (r b m : Half) :
    timingOk r b m = true ↔
      (r = 0 ∨ 1 ≤ r.toNat ∧ r.toNat ≤ 44) ∧ (b = 0 ∨ 88 ≤ b.toNat ∧ b.toNat ≤ 1000) ∧
        (m = 0 ∨ 8 ≤ m.toNat ∧ m.toNat ≤ 100) := by
  simp only [timingOk, Bool.and_eq_true, fieldOk_iff, Config.refreshMin, Config.refreshMax, Config.breakMin,
    Config.breakMax, Config.mabMin, Config.mabMax, and_assoc]

theorem exec_setChannels_inRange {start : Half} {values : List Byte} (s : State)
    (h : runInRange start values = true) :
    exec (.setChannels (.run start values)) s =
      .next ({ s with univ := Memory.setRun s.univ start.toNat values }.respond .ok []) :=
  if_pos h

theorem exec_setChannels_outOfRange {start : Half} {values : List Byte} (s : State)
    (h : ¬runInRange start values = true) :
    exec (.setChannels (.run start values)) s = .next (s.raise .error) :=
  if_neg h

theorem exec_setTiming_legal {r b m : Half} (s : State) (h : timingOk r b m = true) :
    exec (.setTiming (.fields r b m)) s =
      .next ({ s with
        refreshHz := deltaUpdate r s.refreshHz, breakUs := deltaUpdate b s.breakUs,
        mabUs := deltaUpdate m s.mabUs }.respond .ok []) :=
  if_pos h

theorem exec_setTiming_illegal {r b m : Half} (s : State) (h : ¬timingOk r b m = true) :
    exec (.setTiming (.fields r b m)) s = .next (s.raise .error) :=
  if_neg h

theorem exec_systemReset_absent {s : State} (op : GuardOperand) (h : s.params.hasSystemReset = false) :
    exec (.systemReset op) s = .next (s.raise .invalidCmd) := by
  simp [exec, execSystemReset, h]

theorem exec_systemReset_badLength {s : State} (p : List Byte) (h : s.params.hasSystemReset = true) :
    exec (.systemReset (.badLength p)) s = .next (s.raise .invalidLength) := by
  simp [exec, execSystemReset, h]

theorem exec_systemReset_guard {s : State} (h : s.params.hasSystemReset = true) :
    exec (.systemReset (.guard s.params.resetMagic)) s = .next { s.respond .ok [] with pendingRst := true } := by
  simp [exec, execSystemReset, h]

theorem exec_systemReset_wrongGuard {s : State} {m : Quad} (h : s.params.hasSystemReset = true)
    (hm : m ≠ s.params.resetMagic) : exec (.systemReset (.guard m)) s = .next (s.raise .error) := by
  simp [exec, execSystemReset, h, hm]

/-- Every operation answers with exactly one response: OK or an error status (R131). -/
theorem exec_responds {i : Instr} {s t : State} (h : exec i s = .next t) :
    ∃ st payload, t.resp = some (responsePacket st payload) ∧ st ≠ .invalidMagic ∧
      (payload.length = 0 ∨ payload.length = 6 ∨ payload.length = 9) ∧ (st ≠ .ok → payload = []) := by
  have empty : ∀ {u : State} {st : Status}, st ≠ .invalidMagic → u.resp = some (responsePacket st []) → .next u = exec i s →
      ∃ st payload, t.resp = some (responsePacket st payload) ∧ st ≠ .invalidMagic ∧
        (payload.length = 0 ∨ payload.length = 6 ∨ payload.length = 9) ∧ (st ≠ .ok → payload = []) := by
    intro u st hst hu he
    rw [h, Host.Outcome.next.injEq] at he
    exact ⟨st, [], he ▸ hu, hst, .inl rfl, fun _ => rfl⟩
  cases i with
  | setChannels op =>
    cases op with
    | short p => exact empty (st := .invalidLength) (by decide) rfl rfl
    | run start values =>
      by_cases hr : runInRange start values = true
      · exact empty (st := .ok) (by decide) rfl (exec_setChannels_inRange s hr).symm
      · exact empty (st := .error) (by decide) rfl (exec_setChannels_outOfRange s hr).symm
  | getStatus p =>
    cases h
    exact ⟨.ok, statusPayload s, rfl, by decide, .inr (.inr rfl), fun h => absurd rfl h⟩
  | enable p => exact empty (st := .ok) (by decide) rfl rfl
  | disable p => exact empty (st := .ok) (by decide) rfl rfl
  | blackout p =>
    simp only [exec, execBlackout] at empty
    generalize Memory.setRun s.univ 0 _ = m at empty
    exact empty (st := .ok) (by decide) rfl rfl
  | setTiming op =>
    cases op with
    | badLength p => exact empty (st := .invalidLength) (by decide) rfl rfl
    | fields r b m =>
      by_cases hr : timingOk r b m = true
      · exact empty (st := .ok) (by decide) rfl (exec_setTiming_legal s hr).symm
      · exact empty (st := .error) (by decide) rfl (exec_setTiming_illegal s hr).symm
  | getTiming p =>
    cases h
    exact ⟨.ok, timingPayload s, rfl, by decide, .inr (.inl rfl), fun h => absurd rfl h⟩
  | systemReset op =>
    cases hp : s.params.hasSystemReset with
    | false => exact empty (st := .invalidCmd) (by decide) rfl (exec_systemReset_absent op hp).symm
    | true =>
      cases op with
      | badLength p => exact empty (st := .invalidLength) (by decide) rfl (exec_systemReset_badLength p hp).symm
      | guard m =>
        by_cases hm : m = s.params.resetMagic
        · subst hm; exact empty (st := .ok) (by decide) rfl (exec_systemReset_guard hp).symm
        · exact empty (st := .error) (by decide) rfl (exec_systemReset_wrongGuard hp hm).symm
  | reserved c p => exact empty (st := .invalidCmd) (by decide) rfl rfl

end Sys2Proof.Machine
end

