-- ==== Sys2Proof/Laws/Runs.lean ====
section
/-! SUPPORT. What phases 2 and 3 leave alone, ticks on idle ports, and runs. -/

namespace Sys2Proof.Machine

/-! ## Phases 2 and 3 -/

/-- Phases 2 and 3 write what the sequencer and the serializer write, and the clock. -/
theorem finishTick_eq (s : State) :
    s.finishTick = (serWrites (seqWrites s (sequencerStep s)) (serializerStep (sequencerStep s))).endTick := by
  rw [← sequencerStep_eq_seqWrites, ← serializerStep_eq_serWrites, State.finishTick]

@[simp] theorem finishTick_params (s : State) : s.finishTick.params = s.params := by rw [finishTick_eq]; rfl
@[simp] theorem finishTick_refreshHz (s : State) : s.finishTick.refreshHz = s.refreshHz := by rw [finishTick_eq]; rfl
@[simp] theorem finishTick_breakUs (s : State) : s.finishTick.breakUs = s.breakUs := by rw [finishTick_eq]; rfl
@[simp] theorem finishTick_mabUs (s : State) : s.finishTick.mabUs = s.mabUs := by rw [finishTick_eq]; rfl
@[simp] theorem finishTick_enabled (s : State) : s.finishTick.enabled = s.enabled := by rw [finishTick_eq]; rfl
@[simp] theorem finishTick_univ (s : State) : s.finishTick.univ = s.univ := by rw [finishTick_eq]; rfl
@[simp] theorem finishTick_rstate (s : State) : s.finishTick.rstate = s.rstate := by rw [finishTick_eq]; rfl
@[simp] theorem finishTick_rxbuf (s : State) : s.finishTick.rxbuf = s.rxbuf := by rw [finishTick_eq]; rfl
@[simp] theorem finishTick_rxpos (s : State) : s.finishTick.rxpos = s.rxpos := by rw [finishTick_eq]; rfl
@[simp] theorem finishTick_rxlen (s : State) : s.finishTick.rxlen = s.rxlen := by rw [finishTick_eq]; rfl
@[simp] theorem finishTick_rxcnt (s : State) : s.finishTick.rxcnt = s.rxcnt := by rw [finishTick_eq]; rfl
@[simp] theorem finishTick_pendingRst (s : State) : s.finishTick.pendingRst = s.pendingRst := by
  rw [finishTick_eq]; rfl
@[simp] theorem finishTick_inputs (s : State) : s.finishTick.inputs = s.inputs := by rw [finishTick_eq]; rfl
@[simp] theorem finishTick_resp (s : State) : s.finishTick.resp = s.resp := by rw [finishTick_eq]; rfl
@[simp] theorem finishTick_nowUs (s : State) : s.finishTick.nowUs = nextTick s.nowUs := by rw [finishTick_eq]; rfl
@[simp] theorem finishTick_estate (s : State) : s.finishTick.estate = (sequencerStep s).estate := by
  rw [State.finishTick, serializerStep_eq_serWrites]; rfl

@[simp] theorem finishTick_frameCount (s : State) : s.finishTick.frameCount = (sequencerStep s).frameCount := by
  rw [State.finishTick, serializerStep_eq_serWrites]; rfl
@[simp] theorem finishTick_fpsX100 (s : State) : s.finishTick.fpsX100 = (sequencerStep s).fpsX100 := by
  rw [State.finishTick, serializerStep_eq_serWrites]; rfl
@[simp] theorem finishTick_winFrames (s : State) : s.finishTick.winFrames = (sequencerStep s).winFrames := by
  rw [State.finishTick, serializerStep_eq_serWrites]; rfl
@[simp] theorem finishTick_winStart (s : State) : s.finishTick.winStart = (sequencerStep s).winStart := by
  rw [State.finishTick, serializerStep_eq_serWrites]; rfl
@[simp] theorem finishTick_lastComplete (s : State) : s.finishTick.lastComplete = (sequencerStep s).lastComplete := by
  rw [State.finishTick, serializerStep_eq_serWrites]; rfl
@[simp] theorem finishTick_errorCount (s : State) : s.finishTick.errorCount = (sequencerStep s).errorCount := by
  rw [State.finishTick, serializerStep_eq_serWrites]; rfl
@[simp] theorem finishTick_cursor (s : State) : s.finishTick.cursor = (sequencerStep s).cursor := by
  rw [State.finishTick, serializerStep_eq_serWrites]; rfl
@[simp] theorem finishTick_underrun (s : State) : s.finishTick.underrun = (sequencerStep s).underrun := by
  rw [State.finishTick, serializerStep_eq_serWrites]; rfl

/-- The counters and the rate's sample window, in one view. -/
def State.counters (s : State) : Quad × Quad × Quad × Quad × Tick × Tick :=
  (s.frameCount, s.fpsX100, s.errorCount, s.winFrames, s.winStart, s.lastComplete)

/-- A data push completes the frame on a state with the counters as they were, or leaves the counters alone. -/
theorem dataPush_cases (entry : Bool) (s : State) :
    (∃ x : State, dataPush entry s = frameComplete x ∧ x.cursor.toNat = Config.frameLen ∧
      x.counters = s.counters ∧ x.nowUs = s.nowUs) ∨
    ((dataPush entry s).estate = s.estate ∧ (dataPush entry s).counters = s.counters) := by
  simp only [dataPush]
  split_ifs with h
  · exact .inl ⟨_, rfl, h, rfl, rfl⟩
  · exact .inr ⟨rfl, rfl⟩

/-- The sequencer completes a frame, from MAB or DATA, or leaves the counters alone and does not go from those to IDLE. -/
theorem sequencerStep_cases (s : State) :
    ((s.estate = .mab ∨ s.estate = .data) ∧ ∃ x : State, sequencerStep s = frameComplete x ∧
      x.cursor.toNat = Config.frameLen ∧ x.counters = s.counters ∧ x.nowUs = s.nowUs) ∨
    ((s.estate = .mab ∨ s.estate = .data → (sequencerStep s).estate ≠ .idle) ∧
      (sequencerStep s).counters = s.counters) := by
  cases he : s.estate with
  | idle => simp only [sequencerStep, he]; exact .inr ⟨by simp, by split_ifs <;> rfl⟩
  | brk => simp only [sequencerStep, he]; exact .inr ⟨by simp, by split_ifs <;> rfl⟩
  | mab =>
    simp only [sequencerStep, he]
    split_ifs
    · exact .inr ⟨by simp, rfl⟩
    · rcases dataPush_cases true { s with estate := .data, cursor := 0 } with h | ⟨h, h'⟩
      · exact .inl ⟨by simp, h⟩
      · exact .inr ⟨fun _ => by rw [h]; simp, h'⟩
  | data =>
    simp only [sequencerStep, he]
    rcases dataPush_cases false s with h | ⟨h, h'⟩
    · exact .inl ⟨by simp, h⟩
    · exact .inr ⟨fun _ => by rw [h, he]; simp, h'⟩

/-- The clock below its last tick. -/
theorem nextTick_toNat {t : Tick} (h : t.toNat + 1 < 2 ^ 64) : (nextTick t).toNat = t.toNat + 1 := by
  rw [nextTick, if_neg (by rintro rfl; simp at h), BitVec.toNat_add]
  simp; omega

theorem elapsed_of_le {t since : Tick} (h : since.toNat ≤ t.toNat) : elapsed t since = t.toNat - since.toNat :=
  if_pos h

/-! ## Phase 1 -/

/-- Phase 1 leaves every field that is not an operation's or the receiver's. -/
theorem commandPort_frameView {rx : Option Byte} {s t : State} (h : commandPort rx s = .next t) :
    t.frameView = s.frameView ∧ t.line = s.line ∧ t.nowUs = s.nowUs ∧ t.inputs = s.inputs ∧
      t.lastStart = s.lastStart ∧ t.lastStartValid = s.lastStartValid := by
  rw [commandPort_eq_portWrites h]
  exact ⟨rfl, rfl, rfl, rfl, rfl, rfl⟩

/-- Phase 1 dispatches an operation, or writes nothing but the receiver's state and the response. -/
theorem commandPort_cases {rx : Option Byte} {s t : State} (h : commandPort rx s = .next t) :
    opWrites s t = opWrites s { s with resp := t.resp } ∨
      ∃ b u, rx = some b ∧ s.rstate = .checksum ∧
        b = xorsum (Memory.slice (s.storeRx b).rxbuf 0 ((s.storeRx b).rxpos.toNat - 1)) ∧
        exec (s.storeRx b).rxInstr (s.storeRx b) = .next u ∧ t = u.toReceiverIdle := by
  cases rx with
  | none => cases h; exact .inl rfl
  | some b =>
    simp only [commandPort] at h
    cases hst : s.rstate with
    | idle => simp only [receiverStep, hst] at h; split_ifs at h <;> (cases h; exact .inl rfl)
    | cmd => simp only [receiverStep, hst] at h; cases h; exact .inl rfl
    | lenLo => simp only [receiverStep, hst] at h; cases h; exact .inl rfl
    | lenHi => simp only [receiverStep, hst, receiveLenHi] at h; split_ifs at h <;> (cases h; exact .inl rfl)
    | data => simp only [receiverStep, hst, receiveData] at h; split_ifs at h <;> (cases h; exact .inl rfl)
    | checksum =>
      simp only [receiverStep, hst] at h
      split_ifs at h
      obtain ⟨v, hv, rfl⟩ := andThen_eq_next h
      unfold validateAndDispatch at hv
      split_ifs at hv with h1 h2
      · cases hv; exact .inl rfl
      · exact .inr ⟨b, v, rfl, rfl, by simpa using h1, hv, rfl⟩

/-- A packet accepted in a tick that is no reset tick is the one `dispatched` names. -/
theorem dispatched_eq {s : State} {b : Byte} (hr : s.resetNow = false) (hx : s.portInput.rx = some b)
    (hst : s.rstate = .checksum)
    (hb : b = xorsum
      (Memory.slice (s.beginTick.storeRx b).rxbuf 0 ((s.beginTick.storeRx b).rxpos.toNat - 1))) :
    dispatched s = some (s.beginTick.storeRx b).rxInstr := by
  unfold dispatched
  rw [hx]
  exact if_pos ⟨hr, hst, hb⟩

/-- Phase 1 of a tick that dispatches an operation is that operation, and the receiver's return to R_IDLE. -/
theorem commandPort_of_dispatched {s t : State} {i : Instr} (hd : dispatched s = some i)
    (h : commandPort s.portInput.rx s.beginTick = .next t) :
    ∃ b u, s.portInput.rx = some b ∧ exec i (s.beginTick.storeRx b) = .next u ∧ t = u.toReceiverIdle := by
  unfold dispatched at hd
  split at hd
  · cases hd
  · rename_i b hb
    split_ifs at hd with hc
    obtain ⟨-, hst, hx⟩ := hc
    have hst' : s.beginTick.rstate = .checksum := hst
    have hx' : b = xorsum
        (Memory.slice (s.beginTick.storeRx b).rxbuf 0 ((s.beginTick.storeRx b).rxpos.toNat - 1)) := hx
    have hi : (s.beginTick.storeRx b).rxInstr = i := Option.some.inj hd
    rw [hb] at h
    simp only [commandPort, receiverStep, hst'] at h
    split_ifs at h
    obtain ⟨u, hu, rfl⟩ := andThen_eq_next h
    unfold validateAndDispatch at hu
    rw [if_neg (not_not.2 hx')] at hu
    split_ifs at hu
    exact ⟨b, u, hb, hi ▸ hu, rfl⟩

/-- No operation but ENABLE writes a counter (R49). -/
theorem exec_counters {i : Instr} {s t : State} (h : exec i s = .next t) (hi : ∀ p, i ≠ .enable p) :
    t.counters = s.counters := by
  cases i with
  | setChannels op =>
    cases op with
    | short p => cases h; rfl
    | run start values => simp only [exec, execSetChannels] at h; split_ifs at h <;> (cases h; rfl)
  | getStatus _ => cases h; rfl
  | enable p => exact absurd rfl (hi p)
  | disable _ => cases h; rfl
  | blackout _ =>
    simp only [exec, execBlackout] at h
    generalize Memory.setRun s.univ 0 _ = m at h
    cases h; rfl
  | setTiming op =>
    cases op with
    | badLength p => cases h; rfl
    | fields r b m => simp only [exec, execSetTiming] at h; split_ifs at h <;> (cases h; rfl)
  | getTiming _ => cases h; rfl
  | systemReset op =>
    simp only [exec, execSystemReset] at h
    split_ifs at h
    · cases op with
      | badLength p => cases h; rfl
      | guard m => simp only at h; split_ifs at h <;> (cases h; rfl)
    · cases h; rfl
  | reserved _ _ => cases h; rfl

/-! ## Runs -/

theorem runTicks_zero (s : State) : runTicks 0 s = .next s := rfl

theorem runTicks_succ {n : Nat} {s t : State} (h : step s = .next t) : runTicks (n + 1) s = runTicks n t := by
  have h' : Sys2Proof.core.step s = .next t := h
  simp only [runTicks, Host.Core.run, h']
  rfl

/-- A tick on idle ports, no reset pending, is phases 2 and 3. -/
theorem step_quiet {s : State} (hi : s.inputs = []) (hp : s.pendingRst = false) :
    step s = .next s.beginTick.finishTick := by
  rw [step, tick, if_neg (by simp [State.resetNow, State.portInput, hi, hp])]
  simp [State.portInput, hi, commandPort]

/-- On idle ports, no reset pending, no tick is a reset tick. -/
theorem noResetFor_quiet (n : Nat) {s : State} (hi : s.inputs = []) (hp : s.pendingRst = false) :
    noResetFor n s = true := by
  induction n generalizing s with
  | zero => rfl
  | succ n ih =>
    have h := ih (s := s.beginTick.finishTick) (by simp [hi]) (by simp [hp])
    simp [noResetFor, step_quiet hi hp, State.resetNow, State.portInput, hi, hp, h]

end Sys2Proof.Machine
end

