-- ==== Sys2Proof/Laws/Frame.lean ====
section
/-! SUPPORT. The frame in flight: phases 2 and 3 read nothing of the state but its `frameView`, and what that is in each
tick of a frame (42_sequencer.md R164). -/

namespace Sys2Proof.Machine

theorem depth_pos (p : Params) : 0 < p.depth := Nat.succ_pos _

theorem slotUs_ge (p : Params) : 10 ≤ p.slotUs := by
  simp only [Params.slotUs, Params.slotBits, Pos.val]; nlinarith

/-! ## Phases 2 and 3 as functions of the view -/

theorem frameComplete_frameView (s : State) :
    (frameComplete s).frameView = { s.frameView with underrun := false, estate := .idle } := by
  simp only [frameComplete, frameEnd, fpsSample]
  split_ifs <;> rfl

theorem dataPush_frameView {s s' : State} (entry : Bool) (h : s.frameView = s'.frameView) :
    (dataPush entry s).frameView = (dataPush entry s').frameView := by
  simp only [State.frameView, FrameView.mk.injEq] at h
  obtain ⟨h1, h2, h3, h4, h5, h6, h7, h8, h9, h10, h11, h12⟩ := h
  have hu : underrunAfter entry s = underrunAfter entry s' := by simp [underrunAfter, drained, h8, h9, h10]
  simp only [dataPush, h2, h1, h7, h9, hu]
  split_ifs
  · rw [frameComplete_frameView, frameComplete_frameView]; simp [State.frameView, *]
  · simp [State.frameView, *]

/-- Outside IDLE the sequencer is a function of the view. -/
theorem sequencerStep_frameView {s s' : State} (h : s.frameView = s'.frameView) (hi : s.estate ≠ .idle) :
    (sequencerStep s).frameView = (sequencerStep s').frameView := by
  have h0 := h
  simp only [State.frameView, FrameView.mk.injEq] at h
  obtain ⟨h1, h2, h3, h4, h5, h6, h7, h8, h9, h10, h11, h12⟩ := h
  cases he : s.estate with
  | idle => exact absurd he hi
  | brk =>
    simp only [sequencerStep, he, h3 ▸ he, h4]
    split_ifs <;> simp [State.frameView, *]
  | mab =>
    simp only [sequencerStep, he, h3 ▸ he, h4]
    split_ifs
    · simp [State.frameView, *]
    · apply dataPush_frameView; simp [State.frameView, *]
  | data =>
    simp only [sequencerStep, he, h3 ▸ he]
    exact dataPush_frameView _ h0

theorem shiftSlot_frameView {s s' : State} (h : s.frameView = s'.frameView) :
    (shiftSlot s).frameView = (shiftSlot s').frameView ∧ (shiftSlot s).line = (shiftSlot s').line := by
  simp only [State.frameView, FrameView.mk.injEq] at h
  obtain ⟨h1, h2, h3, h4, h5, h6, h7, h8, h9, h10, h11, h12⟩ := h
  simp only [shiftSlot, h10, h11, h12, h1]
  split_ifs <;> simp [State.frameView, *]

/-- The serializer, and the line, are functions of the view. -/
theorem serializerStep_frameView {s s' : State} (h : s.frameView = s'.frameView) :
    (serializerStep s).frameView = (serializerStep s').frameView ∧
      (serializerStep s).line = (serializerStep s').line := by
  have h0 := h
  simp only [State.frameView, FrameView.mk.injEq] at h
  obtain ⟨h1, h2, h3, h4, h5, h6, h7, h8, h9, h10, h11, h12⟩ := h
  have hl : (loadSlot s).frameView = (loadSlot s').frameView := by
    simp only [loadSlot, h10, h9]
    split_ifs
    · exact h0
    · split <;> simp [State.frameView, *]
  cases he : s'.estate <;> simp only [serializerStep, h3, he]
  · exact shiftSlot_frameView hl
  · simp [State.frameView, *]
  · simp [State.frameView, *]
  · exact shiftSlot_frameView hl

/-- What a data push leaves of the view. -/
theorem dataPush_spec (entry : Bool) (s : State) (hc : s.cursor.toNat ≤ 513) :
    (dataPush entry s).params = s.params ∧ (dataPush entry s).frame = s.frame ∧
    (dataPush entry s).cursor.toNat =
      s.cursor.toNat + min (513 - s.cursor.toNat) (s.params.depth - s.fifo.length) ∧
    (dataPush entry s).fifo =
      s.fifo ++ Memory.slice s.frame s.cursor.toNat
        (min (513 - s.cursor.toNat) (s.params.depth - s.fifo.length)) ∧
    (dataPush entry s).estate = (if (dataPush entry s).cursor.toNat = 513 then .idle else s.estate) ∧
    (dataPush entry s).shTick = s.shTick ∧ (dataPush entry s).shByte = s.shByte ∧
    (dataPush entry s).shActive = s.shActive := by
  have hcur := fillFifo_cursor s.frame s.params.depth s.cursor s.fifo hc
  have hf : (fillFifo s.frame s.params.depth Config.frameLen s.cursor s.fifo).2 = _ :=
    congrArg Prod.snd (fillFifo_eq s.frame s.params.depth Config.frameLen s.cursor s.fifo (Nat.sub_le _ _))
  obtain ⟨p, hp⟩ : ∃ p, p = fillFifo s.frame s.params.depth Config.frameLen s.cursor s.fifo := ⟨_, rfl⟩
  rw [← hp] at hcur hf
  obtain ⟨x, hx⟩ : ∃ x : State, x = { s with underrun := underrunAfter entry s, cursor := p.1, fifo := p.2 } :=
    ⟨_, rfl⟩
  have hdef : dataPush entry s = if p.1.toNat = Config.frameLen then frameComplete x else x := by
    rw [hx, hp]; rfl
  by_cases h : p.1.toNat = Config.frameLen
  · have hfv := frameComplete_frameView x
    rw [hdef, if_pos h]
    generalize frameComplete x = y at hfv
    subst hx
    simp only [State.frameView, FrameView.mk.injEq] at hfv
    obtain ⟨h1, h2, h3, h4, h5, h6, h7, h8, h9, h10, h11, h12⟩ := hfv
    refine ⟨h1, h2, by rw [h7]; exact hcur, by rw [h9]; exact hf, ?_, h12, h11, h10⟩
    rw [if_pos (by rw [h7]; exact h)]; exact h3
  · rw [hdef, if_neg h]
    subst hx
    exact ⟨rfl, rfl, hcur, hf, (if_neg h).symm, rfl, rfl, rfl⟩

/-- One tick of a slot being shifted. -/
theorem serializerStep_active {s : State} (he : s.estate ≠ .brk ∧ s.estate ≠ .mab) (ha : s.shActive = true) :
    serializerStep s =
      { s with
        line := slotBit s.shByte (s.shTick / s.params.bitUs.val), shTick := s.shTick + 1,
        shActive := s.shTick + 1 ≠ s.params.slotUs } := by
  cases h : s.estate <;> simp_all [serializerStep, loadSlot, shiftSlot]

/-- The first tick of a slot. -/
theorem serializerStep_load {s : State} {b : Byte} {rest : List Byte} (he : s.estate ≠ .brk ∧ s.estate ≠ .mab)
    (ha : s.shActive = false) (hf : s.fifo = b :: rest) :
    serializerStep s =
      { s with
        fifo := rest, shByte := b, line := slotBit b 0, shTick := 1, shActive := 1 ≠ s.params.slotUs } := by
  cases h : s.estate <;> simp_all [serializerStep, loadSlot, shiftSlot]

/-! ## The frame, tick by tick -/

/-- The state after data tick `j` of a frame with contents `fr`: slot `j / SLOT_US`, tick `j % SLOT_US` of it. -/
structure DataPhase (fr : Memory) (p : Params) (j : Nat) (t : State) : Prop where
  params : t.params = p
  frame : t.frame = fr
  cursor : t.cursor.toNat = min 513 (p.depth + j / p.slotUs + (if j % p.slotUs = 0 then 0 else 1))
  fifo : t.fifo = Memory.slice fr (j / p.slotUs + 1) (t.cursor.toNat - (j / p.slotUs + 1))
  estate : t.estate = if t.cursor.toNat < 513 then .data else .idle
  shTick : t.shTick = j % p.slotUs + 1
  shByte : t.shByte = Memory.get fr (j / p.slotUs)
  shActive : t.shActive = decide (j % p.slotUs + 1 ≠ p.slotUs)
  line : t.line = slotBit (Memory.get fr (j / p.slotUs)) (j % p.slotUs / p.bitUs.val)

/-- The next tick is in the same slot, or the first of the next. -/
theorem div_mod_succ {j n : Nat} (hn : 0 < n) :
    (j % n + 1 < n ∧ (j + 1) / n = j / n ∧ (j + 1) % n = j % n + 1) ∨
      (j % n + 1 = n ∧ (j + 1) / n = j / n + 1 ∧ (j + 1) % n = 0) := by
  have h := Nat.mod_lt j hn
  have e := Nat.div_add_mod j n
  have e' : j + 1 = n * (j / n) + (j % n + 1) := by omega
  rcases Nat.lt_or_ge (j % n + 1) n with h1 | h1
  · refine .inl ⟨h1, ?_, ?_⟩
    · rw [e', Nat.mul_add_div hn, Nat.div_eq_of_lt h1, Nat.add_zero]
    · rw [e', Nat.mul_add_mod, Nat.mod_eq_of_lt h1]
  · have h2 : j % n + 1 = n := by omega
    refine .inr ⟨h2, ?_, ?_⟩
    · rw [e', h2, Nat.mul_add_div hn, Nat.div_self hn]
    · rw [e', h2, Nat.mul_add_mod, Nat.mod_self]

/-- The first data tick (R158). -/
theorem dataPhase_entry {frame : Memory} {p : Params} {s : State} (he : s.estate = .mab)
    (h1 : ¬1 < s.phaseCnt.toNat) (hp : s.params = p) (hF : s.frame = frame) (hf : s.fifo = [])
    (ha : s.shActive = false) : DataPhase frame p 0 s.finishTick := by
  have hS := slotUs_ge p
  have hD := depth_pos p
  obtain ⟨d1, d2, d3, d4, d5, d6, d7, d8⟩ := dataPush_spec true { s with estate := .data, cursor := 0 } (by simp)
  have hseq : sequencerStep s = dataPush true { s with estate := .data, cursor := 0 } := by
    simp only [sequencerStep, he, if_neg h1]
  have hfin : s.finishTick = (serializerStep (sequencerStep s)).endTick := rfl
  rw [hfin, hseq]
  generalize dataPush true { s with estate := .data, cursor := 0 } = v at *
  simp only [hp, hF, hf, List.length_nil, List.nil_append] at d1 d2 d3 d4 d5 d8
  have d3' : v.cursor.toNat = min 513 p.depth := by rw [d3]; simp
  have hve : v.estate ≠ .brk ∧ v.estate ≠ .mab := by rw [d5]; split_ifs <;> simp
  have hcons : v.fifo = Memory.get frame 0 :: Memory.slice frame 1 (v.cursor.toNat - 1) := by
    rw [d4, show min (513 - BitVec.toNat (0 : BitVec 10)) (p.depth - 0) = (v.cursor.toNat - 1) + 1 by
      rw [d3']; simp; omega, slice_succ]
    rfl
  rw [serializerStep_load hve (d8.trans ha) hcons]
  refine ⟨d1, d2, ?_, ?_, ?_, ?_, ?_, ?_, ?_⟩
  · simp only [endTick_cursor, d3']; simp
  · simp
  · simp only [endTick_estate, endTick_cursor]
    rw [d5]
    have hlt : v.cursor.toNat < 513 ↔ ¬v.cursor.toNat = 513 := by omega
    by_cases h5 : v.cursor.toNat = 513 <;> simp [h5, hlt]
  · simp
  · simp
  · simp [d1]
  · simp

/-- The sequencer in a data tick: the queue is topped up while the frame lasts, then left alone. -/
theorem dataPhase_sequencer {frame : Memory} {p : Params} {j : Nat} {s : State} (h : DataPhase frame p j s)
    (hj : j + 1 < 513 * p.slotUs) :
    (sequencerStep s).params = p ∧ (sequencerStep s).frame = frame ∧
    (sequencerStep s).cursor.toNat = min 513 (p.depth + j / p.slotUs + 1) ∧
    (sequencerStep s).fifo =
      Memory.slice frame (j / p.slotUs + 1) ((sequencerStep s).cursor.toNat - (j / p.slotUs + 1)) ∧
    (sequencerStep s).estate = (if (sequencerStep s).cursor.toNat < 513 then .data else .idle) ∧
    (sequencerStep s).shTick = s.shTick ∧ (sequencerStep s).shByte = s.shByte ∧
    (sequencerStep s).shActive = s.shActive := by
  have hS := slotUs_ge p
  have hD := depth_pos p
  have hcase := div_mod_succ (j := j) (n := p.slotUs) (by omega)
  have hk : (j + 1) / p.slotUs < 513 := by rw [Nat.div_lt_iff_lt_mul (by omega)]; omega
  have hcu := h.cursor
  have hcl : s.cursor.toNat ≤ 513 := by omega
  have hfl : s.fifo.length = s.cursor.toNat - (j / p.slotUs + 1) := by rw [h.fifo, slice_length]
  by_cases hc : s.cursor.toNat < 513
  · have he : s.estate = .data := by rw [h.estate, if_pos hc]
    have hseq : sequencerStep s = dataPush false s := by simp only [sequencerStep, he]
    rw [hseq]
    obtain ⟨d1, d2, d3, d4, d5, d6, d7, d8⟩ := dataPush_spec false s hcl
    rw [hfl, h.params] at d3
    have hc3 : (dataPush false s).cursor.toNat = min 513 (p.depth + j / p.slotUs + 1) := by
      rw [d3]; split_ifs at hcu <;> omega
    refine ⟨d1.trans h.params, d2.trans h.frame, hc3, ?_, ?_, d6, d7, d8⟩
    · have hat : s.cursor.toNat = (j / p.slotUs + 1) + (s.cursor.toNat - (j / p.slotUs + 1)) := by
        split_ifs at hcu <;> omega
      rw [d4, hfl, h.params, h.frame, h.fifo]
      rw [show Memory.slice frame s.cursor.toNat =
        Memory.slice frame ((j / p.slotUs + 1) + (s.cursor.toNat - (j / p.slotUs + 1))) by rw [← hat],
        slice_append, d3]
      congr 1
      split_ifs at hcu <;> omega
    · rw [d5, he]
      by_cases h5 : (dataPush false s).cursor.toNat = 513
      · rw [if_pos h5, if_neg (by omega)]
      · rw [if_neg h5, if_pos (by rw [hc3] at h5 ⊢; omega)]
  · have he : s.estate = .idle := by rw [h.estate, if_neg hc]
    have hdr : drained s = false := by
      simp only [drained, Bool.and_eq_false_iff]
      rcases hcase with ⟨h1, _⟩ | ⟨h1, h2, h3⟩
      · right; rw [h.shActive]; simp; omega
      · left
        rw [List.isEmpty_eq_false_iff, ← List.length_pos_iff, hfl]; omega
    have hseq : sequencerStep s = s := by simp [sequencerStep, he, startOk, hdr]
    rw [hseq]
    refine ⟨h.params, h.frame, ?_, h.fifo, h.estate, rfl, rfl, rfl⟩
    split_ifs at hcu <;> omega

/-- From one data tick to the next. -/
theorem dataPhase_next {frame : Memory} {p : Params} {j : Nat} {s : State} (h : DataPhase frame p j s)
    (hj : j + 1 < 513 * p.slotUs) : DataPhase frame p (j + 1) s.finishTick := by
  have hS := slotUs_ge p
  have hD := depth_pos p
  have hk : (j + 1) / p.slotUs < 513 := by rw [Nat.div_lt_iff_lt_mul (by omega)]; omega
  obtain ⟨v1, v2, v3, v4, v5, v6, v7, v8⟩ := dataPhase_sequencer h hj
  have hfin : s.finishTick = (serializerStep (sequencerStep s)).endTick := rfl
  rw [hfin]
  generalize sequencerStep s = v at *
  have hve : v.estate ≠ .brk ∧ v.estate ≠ .mab := by rw [v5]; split_ifs <;> simp
  rcases div_mod_succ (j := j) (n := p.slotUs) (by omega) with ⟨h1, h2, h3⟩ | ⟨h1, h2, h3⟩
  · have hact : v.shActive = true := by rw [v8, h.shActive]; simp; omega
    rw [serializerStep_active hve hact]
    refine ⟨v1, v2, ?_, ?_, v5, ?_, ?_, ?_, ?_⟩
    · rw [h2, h3, if_neg (by omega), endTick_cursor]; exact v3
    · rw [h2]; exact v4
    · rw [h3]; show v.shTick + 1 = _; rw [v6, h.shTick]
    · rw [h2]; show v.shByte = _; rw [v7, h.shByte]
    · rw [h3]; show decide (v.shTick + 1 ≠ v.params.slotUs) = _; rw [v6, h.shTick, v1]
    · rw [h2, h3]; show slotBit v.shByte (v.shTick / v.params.bitUs.val) = _; rw [v6, h.shTick, v1, v7, h.shByte]
  · have hact : v.shActive = false := by rw [v8, h.shActive]; simp; omega
    have hcons : v.fifo = Memory.get frame (j / p.slotUs + 1) ::
        Memory.slice frame (j / p.slotUs + 2) (v.cursor.toNat - (j / p.slotUs + 2)) := by
      rw [v4, show v.cursor.toNat - (j / p.slotUs + 1) = (v.cursor.toNat - (j / p.slotUs + 2)) + 1 by
        rw [v3]; omega, slice_succ]
    rw [serializerStep_load hve hact hcons]
    refine ⟨v1, v2, ?_, ?_, v5, ?_, ?_, ?_, ?_⟩
    · rw [h2, h3, if_pos rfl, endTick_cursor]; simp only [v3]; rfl
    · rw [h2]; rfl
    · rw [h3]; rfl
    · rw [h2]; rfl
    · rw [h3]; show decide (1 ≠ v.params.slotUs) = _; rw [v1]
    · rw [h2, h3, Nat.zero_div]; rfl

/-- The state after tick `n` of a frame with contents `frame` and durations `b`, `m`, counted from the frame's first. -/
def FrameAt (frame : Memory) (p : Params) (b m : Half) (n : Nat) (t : State) : Prop :=
  if n < b.toNat then
    (t.estate = .brk ∧ t.phaseCnt.toNat = b.toNat - n ∧ t.line = false) ∧
      t.params = p ∧ t.frame = frame ∧ t.latMab = m ∧ t.fifo = [] ∧ t.shActive = false
  else if n < b.toNat + m.toNat then
    (t.estate = .mab ∧ t.phaseCnt.toNat = m.toNat - (n - b.toNat) ∧ t.line = true) ∧
      t.params = p ∧ t.frame = frame ∧ t.latMab = m ∧ t.fifo = [] ∧ t.shActive = false
  else DataPhase frame p (n - (b.toNat + m.toNat)) t

theorem phaseCnt_pred {c : Half} (h : 1 < c.toNat) : (c - 1).toNat = c.toNat - 1 := by
  rw [BitVec.toNat_sub_of_le]
  · rfl
  · rw [BitVec.le_def]; exact Nat.le_of_lt h

/-- From one tick of a frame to the next. -/
theorem frameAt_next {frame : Memory} {p : Params} {b m : Half} {n : Nat} {s : State} (hm : 1 ≤ m.toNat)
    (h : FrameAt frame p b m n s) (hn : n + 1 < b.toNat + m.toNat + 513 * p.slotUs) :
    FrameAt frame p b m (n + 1) s.finishTick := by
  unfold FrameAt at h
  split_ifs at h with h1 h2
  · obtain ⟨⟨a1, a2, _⟩, a3, a4, a6, a7, a8⟩ := h
    unfold FrameAt State.finishTick
    by_cases h3 : n + 1 < b.toNat
    · have hc : 1 < s.phaseCnt.toNat := by omega
      rw [if_pos h3]
      simp only [sequencerStep, a1, if_pos hc, serializerStep]
      refine ⟨⟨rfl, ?_, rfl⟩, a3, a4, a6, a7, a8⟩
      show (s.phaseCnt - 1).toNat = _
      rw [phaseCnt_pred hc]; omega
    · have hc : ¬1 < s.phaseCnt.toNat := by omega
      rw [if_neg h3, if_pos (by omega)]
      simp only [sequencerStep, a1, if_neg hc, serializerStep]
      refine ⟨⟨rfl, ?_, rfl⟩, a3, a4, a6, a7, a8⟩
      show s.latMab.toNat = _
      rw [a6]; omega
  · obtain ⟨⟨a1, a2, _⟩, a3, a4, a6, a7, a8⟩ := h
    unfold FrameAt
    by_cases h3 : n + 1 < b.toNat + m.toNat
    · have hc : 1 < s.phaseCnt.toNat := by omega
      unfold State.finishTick
      rw [if_neg (by omega), if_pos h3]
      simp only [sequencerStep, a1, if_pos hc, serializerStep]
      refine ⟨⟨rfl, ?_, rfl⟩, a3, a4, a6, a7, a8⟩
      show (s.phaseCnt - 1).toNat = _
      rw [phaseCnt_pred hc]; omega
    · rw [if_neg (by omega), if_neg h3, show n + 1 - (b.toNat + m.toNat) = 0 by omega]
      exact dataPhase_entry a1 (by omega) a3 a4 a7 a8
  · unfold FrameAt
    rw [if_neg (by omega), if_neg (by omega),
      show n + 1 - (b.toNat + m.toNat) = (n - (b.toNat + m.toNat)) + 1 by omega]
    exact dataPhase_next h (by omega)

/-- Being at a tick of a frame is a matter of the view and the line alone. -/
theorem frameAt_congr {frame : Memory} {p : Params} {b m : Half} {n : Nat} {s t : State}
    (h : FrameAt frame p b m n s) (hv : t.frameView = s.frameView) (hl : t.line = s.line) :
    FrameAt frame p b m n t := by
  simp only [State.frameView, FrameView.mk.injEq] at hv
  obtain ⟨h1, h2, h3, h4, h5, h6, h7, h8, h9, h10, h11, h12⟩ := hv
  unfold FrameAt at h ⊢
  split_ifs at h ⊢
  · simpa only [h1, h2, h3, h4, h6, h9, h10, hl] using h
  · simpa only [h1, h2, h3, h4, h6, h9, h10, hl] using h
  · obtain ⟨a1, a2, a3, a4, a5, a6, a7, a8, a9⟩ := h
    constructor <;> simpa only [h1, h2, h3, h7, h9, h10, h11, h12, hl]

end Sys2Proof.Machine
end

