-- ==== Sys2Proof/Laws/PerInstr.lean ====
section
/-! SUPPORT. Per-instruction families: for every operation, reading its code and payload back gives the operation. -/

namespace Sys2Proof.Laws.CodeAndPayload

/-- The dispatcher's selection from an operation's own code and payload is that operation (R91 to R97), and the payload is
one the receiver accepts (R89). -/
def Statement (i : Instr) : Prop :=
  i.wf = true → decodeOp i.code i.payload = i ∧ i.payload.length ≤ Config.rxMaxPayload

theorem length_of_payloadOk {p : List Byte} (h : payloadOk p = true) : p.length ≤ Config.rxMaxPayload :=
  of_decide_eq_true h

theorem channelsOperand_length {op : ChannelsOperand} (h : op.wf = true) :
    op.payload.length ≤ Config.rxMaxPayload := by
  cases op with
  | run start values =>
    have h' : 2 + values.length ≤ Config.rxMaxPayload := of_decide_eq_true h
    rwa [ChannelsOperand.payload, List.length_append, bytesLE16_length]
  | short p =>
    have h' : p.length < 2 := of_decide_eq_true h
    exact le_trans (le_of_lt h') (by decide)

theorem channelsOperand_payload {op : ChannelsOperand} (h : op.wf = true) : channelsOperand op.payload = op := by
  cases op with
  | run start values => simp [ChannelsOperand.payload, bytesLE16, channelsOperand]
  | short p =>
    match p with
    | [] => rfl
    | [_] => rfl
    | _ :: _ :: _ => simp [ChannelsOperand.wf] at h

theorem timingOperand_of_length {p : List Byte} (h : p.length ≠ 6) : timingOperand p = .badLength p := by
  match p with
  | [] => rfl
  | [_] => rfl
  | [_, _] => rfl
  | [_, _, _] => rfl
  | [_, _, _, _] => rfl
  | [_, _, _, _, _] => rfl
  | [_, _, _, _, _, _] => simp at h
  | _ :: _ :: _ :: _ :: _ :: _ :: _ :: _ => rfl

theorem guardOperand_of_length {p : List Byte} (h : p.length ≠ 4) : guardOperand p = .badLength p := by
  match p with
  | [] => rfl
  | [_] => rfl
  | [_, _] => rfl
  | [_, _, _] => rfl
  | [_, _, _, _] => simp at h
  | _ :: _ :: _ :: _ :: _ :: _ => rfl

theorem timingOperand_payload {op : TimingOperand} (h : op.wf = true) : timingOperand op.payload = op := by
  cases op with
  | fields r b m => simp [TimingOperand.payload, bytesLE16, timingOperand]
  | badLength p =>
    refine timingOperand_of_length ?_
    simp only [TimingOperand.wf, Bool.and_eq_true, decide_eq_true_eq] at h
    exact h.1

theorem guardOperand_payload {op : GuardOperand} (h : op.wf = true) : guardOperand op.payload = op := by
  cases op with
  | guard m => simp [GuardOperand.payload, bytesLE32, guardOperand]
  | badLength p =>
    refine guardOperand_of_length ?_
    simp only [GuardOperand.wf, Bool.and_eq_true, decide_eq_true_eq] at h
    exact h.1

theorem setChannels (op : ChannelsOperand) : Statement (.setChannels op) := fun h =>
  ⟨congrArg Instr.setChannels (channelsOperand_payload h), channelsOperand_length h⟩

theorem getStatus (ignored : List Byte) : Statement (.getStatus ignored) := fun h =>
  ⟨rfl, length_of_payloadOk h⟩

theorem enable (ignored : List Byte) : Statement (.enable ignored) := fun h =>
  ⟨rfl, length_of_payloadOk h⟩

theorem disable (ignored : List Byte) : Statement (.disable ignored) := fun h =>
  ⟨rfl, length_of_payloadOk h⟩

theorem blackout (ignored : List Byte) : Statement (.blackout ignored) := fun h =>
  ⟨rfl, length_of_payloadOk h⟩

theorem setTiming (op : TimingOperand) : Statement (.setTiming op) := fun h =>
  ⟨congrArg Instr.setTiming (timingOperand_payload h), by
    cases op with
    | fields r b m => simp [Instr.payload, TimingOperand.payload, Config.rxMaxPayload]
    | badLength p =>
      simp only [Instr.wf, TimingOperand.wf, payloadOk, Bool.and_eq_true, decide_eq_true_eq] at h
      exact h.2⟩

theorem getTiming (ignored : List Byte) : Statement (.getTiming ignored) := fun h =>
  ⟨rfl, length_of_payloadOk h⟩

theorem systemReset (op : GuardOperand) : Statement (.systemReset op) := fun h =>
  ⟨congrArg Instr.systemReset (guardOperand_payload h), by
    cases op with
    | guard m => simp [Instr.payload, GuardOperand.payload, Config.rxMaxPayload]
    | badLength p =>
      simp only [Instr.wf, GuardOperand.wf, payloadOk, Bool.and_eq_true, decide_eq_true_eq] at h
      exact h.2⟩

theorem decodeOp_reserved {c : Byte} (h : reservedCode c = true) (p : List Byte) :
    decodeOp c p = .reserved c p := by
  unfold decodeOp
  split <;> first | rfl | (exact absurd h (by decide))

theorem reserved (code : Byte) (ignored : List Byte) : Statement (.reserved code ignored) := fun h => by
  simp only [Instr.wf, Bool.and_eq_true, payloadOk, decide_eq_true_eq] at h
  exact ⟨decodeOp_reserved h.1 ignored, h.2⟩

end Sys2Proof.Laws.CodeAndPayload
end

