-- ==== Sys2Proof/Tests/Slice0.lean ====
section
/-! SUPPORT. Tests. Expected values are the spec's: 30_encoding.md R106, and the vectors of 95_test_vectors.md named in the
theorems' comments; for the rest, hand calculation from the rule named. Then a witness for each statement's hypotheses. -/

namespace Sys2Proof.Tests

open Sys2Proof Sys2Proof.Machine

/-! ## Well-formedness: one ill-formed term for each check (R89, R92, R93, R97, R99) -/

theorem test_wf_short_has_no_start : Instr.wf (.setChannels (.short [0x00#8, 0x00#8])) = false := by decide
theorem test_wf_run_too_long :
    Instr.wf (.setChannels (.run 0 (List.replicate 1023 0x00#8))) = false := by decide +kernel
theorem test_wf_timing_of_six_bytes : Instr.wf (.setTiming (.badLength (List.replicate 6 0x00#8))) = false := by decide
theorem test_wf_timing_too_long :
    Instr.wf (.setTiming (.badLength (List.replicate 1025 0x00#8))) = false := by decide +kernel
theorem test_wf_guard_of_four_bytes :
    Instr.wf (.systemReset (.badLength (List.replicate 4 0x00#8))) = false := by decide
theorem test_wf_guard_too_long :
    Instr.wf (.systemReset (.badLength (List.replicate 1025 0x00#8))) = false := by decide +kernel
theorem test_wf_reserved_code_in_use :
    ∀ c ∈ [0x01#8, 0x02#8, 0x03#8, 0x04#8, 0x05#8, 0x06#8, 0x07#8, 0x08#8], Instr.wf (.reserved c []) = false := by
  decide
theorem test_wf_reserved_too_long :
    Instr.wf (.reserved 0x09#8 (List.replicate 1025 0x00#8)) = false := by decide +kernel
theorem test_wf_ignored_too_long :
    (∀ i ∈ [Instr.getStatus, .enable, .disable, .blackout, .getTiming],
      Instr.wf (i (List.replicate 1025 0x00#8)) = false) := by decide +kernel
theorem test_wf_boundaries :
    Instr.wf (.setChannels (.short [0xFF#8])) = true ∧
    Instr.wf (.setChannels (.run 511 (List.replicate 1022 0x00#8))) = true ∧
    Instr.wf (.enable (List.replicate 1024 0x00#8)) = true ∧ Instr.wf (.reserved 0x00#8 []) = true ∧
    Instr.wf (.reserved 0xFF#8 []) = true := by decide +kernel

/-! ## Decoding: packets written out from the spec's encodings, and what the decoder refuses -/

/-- V-O8: `SET_CHANNELS 510, 1, 2`. -/
theorem test_decode_setChannels :
    decode [0xAA#8, 0x01#8, 0x04#8, 0x00#8, 0xFE#8, 0x01#8, 0x01#8, 0x02#8, 0x53#8] =
      .ok (.setChannels (.run 510 [0x01#8, 0x02#8]), []) := by decide
/-- V-O14: one payload byte, no `start`. -/
theorem test_decode_setChannels_short :
    decode [0xAA#8, 0x01#8, 0x01#8, 0x00#8, 0x00#8, 0xAA#8] = .ok (.setChannels (.short [0x00#8]), []) := by decide
theorem test_decode_getStatus :
    decode [0xAA#8, 0x02#8, 0x00#8, 0x00#8, 0xA8#8] = .ok (.getStatus [], []) := by decide
/-- V-F2: ENABLE with a payload; the byte after the packet is left. -/
theorem test_decode_enable :
    decode [0xAA#8, 0x03#8, 0x02#8, 0x00#8, 0x01#8, 0x02#8, 0xA8#8, 0x55#8] =
      .ok (.enable [0x01#8, 0x02#8], [0x55#8]) := by decide
theorem test_decode_disable :
    decode [0xAA#8, 0x04#8, 0x00#8, 0x00#8, 0xAE#8] = .ok (.disable [], []) := by decide
theorem test_decode_blackout :
    decode [0xAA#8, 0x05#8, 0x00#8, 0x00#8, 0xAF#8] = .ok (.blackout [], []) := by decide
/-- V-T2: `SET_TIMING 30, 200, 20`. -/
theorem test_decode_setTiming :
    decode [0xAA#8, 0x06#8, 0x06#8, 0x00#8, 0x1E#8, 0x00#8, 0xC8#8, 0x00#8, 0x14#8, 0x00#8, 0x68#8] =
      .ok (.setTiming (.fields 30 200 20), []) := by decide
/-- V-T11: five payload bytes. -/
theorem test_decode_setTiming_badLength :
    decode [0xAA#8, 0x06#8, 0x05#8, 0x00#8, 0x01#8, 0x00#8, 0x00#8, 0x00#8, 0x00#8, 0xA8#8] =
      .ok (.setTiming (.badLength [0x01#8, 0x00#8, 0x00#8, 0x00#8, 0x00#8]), []) := by decide
theorem test_decode_getTiming :
    decode [0xAA#8, 0x07#8, 0x00#8, 0x00#8, 0xAD#8] = .ok (.getTiming [], []) := by decide
/-- V-O24. -/
theorem test_decode_systemReset :
    decode [0xAA#8, 0x08#8, 0x04#8, 0x00#8, 0x11#8, 0x56#8, 0x34#8, 0x12#8, 0xC7#8] =
      .ok (.systemReset (.guard 0x12345611#32), []) := by decide
/-- V-O23: three payload bytes. -/
theorem test_decode_systemReset_badLength :
    decode [0xAA#8, 0x08#8, 0x03#8, 0x00#8, 0x78#8, 0x56#8, 0x34#8, 0xBB#8] =
      .ok (.systemReset (.badLength [0x78#8, 0x56#8, 0x34#8]), []) := by decide
/-- V-O19 and V-O18: the codes around the assigned ones. -/
theorem test_decode_reserved :
    decode [0xAA#8, 0x09#8, 0x00#8, 0x00#8, 0xA3#8] = .ok (.reserved 0x09#8 [], []) ∧
    decode [0xAA#8, 0x00#8, 0x00#8, 0x00#8, 0xAA#8] = .ok (.reserved 0x00#8 [], []) := by decide
theorem test_decode_refuses_noHeader : decode [0xAA#8, 0x03#8, 0x00#8] = .error .noHeader := by decide
/-- V-F4. -/
theorem test_decode_refuses_badMagic :
    decode [0xAB#8, 0x03#8, 0x00#8, 0x00#8, 0xA9#8] = .error (.badMagic 0xAB#8) := by decide
/-- V-F6 and V-F7. -/
theorem test_decode_refuses_overLength :
    decode [0xAA#8, 0x01#8, 0xFF#8, 0xFF#8] = .error (.overLength 65535) ∧
    decode [0xAA#8, 0x01#8, 0x01#8, 0x04#8] = .error (.overLength 1025) := by decide
theorem test_decode_refuses_truncated : decode [0xAA#8, 0x03#8, 0x00#8, 0x00#8] = .error .truncated := by decide
/-- V-F3 and V-F11. -/
theorem test_decode_refuses_badChecksum :
    decode [0xAA#8, 0x03#8, 0x00#8, 0x00#8, 0xA8#8] = .error .badChecksum ∧
    decode [0xAA#8, 0x01#8, 0x03#8, 0x00#8, 0x00#8, 0x00#8, 0x07#8, 0x00#8] = .error .badChecksum := by decide

/-- The nine rows of the opcode table (R108), length field 0. -/
theorem test_tableWord_rows :
    decodeTableWord 32 0x000001AA = some (.setChannels (.short [])) ∧
    decodeTableWord 32 0x000002AA = some (.getStatus []) ∧ decodeTableWord 32 0x000003AA = some (.enable []) ∧
    decodeTableWord 32 0x000004AA = some (.disable []) ∧ decodeTableWord 32 0x000005AA = some (.blackout []) ∧
    decodeTableWord 32 0x000006AA = some (.setTiming (.badLength [])) ∧
    decodeTableWord 32 0x000007AA = some (.getTiming []) ∧
    decodeTableWord 32 0x000008AA = some (.systemReset (.badLength [])) ∧
    decodeTableWord 32 0x000000AA = some (.reserved 0x00#8 []) ∧
    decodeTableWord 32 0x0000FFAA = some (.reserved 0xFF#8 []) := by decide
theorem test_tableWord_operands :
    decodeTableWord 32 0x000606AA = some (.setTiming (.fields 0 0 0)) ∧
    decodeTableWord 32 0x000003AB = none ∧ decodeTableWord 32 0x040103AA = none ∧
    decodeTableWord 40 0x00000103AA = some (.enable [0x00#8]) ∧
    decodeTableWord 40 0xA9000003AA = some (.enable []) ∧ decodeTableWord 40 0x00000003AA = none := by
  decide +kernel

/-! ## One operation in one tick -/

/-- `s` with the packet `p` received but for its last byte, which the next tick presents. -/
def withPacket (s : State) (p : List Byte) : State :=
  { s with
    rstate := .checksum, rxpos := BitVec.ofNat 11 (p.length - 1), rxbuf := Memory.setRun [] 0 p.dropLast,
    rxlen := le16 (p.getD 2 0) (p.getD 3 0), rxcnt := BitVec.ofNat 11 (p.length - 5),
    inputs := [⟨false, p.getLast?⟩] }

/-- What a tick leaves, seen through `f`. -/
def afterTick {α : Type} (f : State → α) (s : State) : Option α :=
  match step s with
  | .next t => some (f t)
  | .fault _ => none
  | .refused _ => none

/-- The reset state of a block with SYSTEM_RESET (P5's parameters). -/
def optionReset : State := State.resetWith { Config.resetParams with hasSystemReset := true }

/-- V-O1, V-S1: the frame starts in ENABLE's own tick. -/
theorem test_enable :
    afterTick (fun t => (t.resp, t.enabled, t.estate, t.phaseCnt, t.line))
      (withPacket State.reset [0xAA#8, 0x03#8, 0x00#8, 0x00#8, 0xA9#8]) =
      some (some [0xBB#8, 0x00#8, 0x00#8, 0x00#8, 0xBB#8], true, .brk, 150, false) := by decide
/-- R133: ERROR_COUNT and LAST_START stay, the counters are cleared. -/
theorem test_enable_keeps_errors :
    afterTick (fun t => (t.frameCount, t.fpsX100, t.errorCount, t.lastStart, t.winStart, t.estate))
      (withPacket { State.reset with
        nowUs := 1000, frameCount := 7, fpsX100 := 4400, errorCount := 3, lastStart := 990, lastStartValid := true }
        [0xAA#8, 0x03#8, 0x00#8, 0x00#8, 0xA9#8]) = some (0, 0, 3, 990, 1000, .idle) := by decide
/-- V-O2. -/
theorem test_disable :
    afterTick (fun t => (t.resp, t.enabled, t.frameCount)) (withPacket
      { State.reset with enabled := true, frameCount := 5 } [0xAA#8, 0x04#8, 0x00#8, 0x00#8, 0xAE#8]) =
      some (some [0xBB#8, 0x00#8, 0x00#8, 0x00#8, 0xBB#8], false, 5) := by decide
/-- V-O5. -/
theorem test_getStatus :
    afterTick State.resp (withPacket { State.reset with enabled := true, frameCount := 45, fpsX100 := 4403 }
      [0xAA#8, 0x02#8, 0x00#8, 0x00#8, 0xA8#8]) =
      some (some [0xBB#8, 0x00#8, 0x09#8, 0x00#8, 0x01#8, 0x2D#8, 0x00#8, 0x00#8, 0x00#8, 0x33#8, 0x11#8, 0x00#8,
        0x00#8, 0xBC#8]) := by decide
/-- V-O6. -/
theorem test_getStatus_wrapping_count :
    afterTick State.resp (withPacket { State.reset with enabled := true, frameCount := 0xFFFFFFFF#32, fpsX100 := 4400 }
      [0xAA#8, 0x02#8, 0x00#8, 0x00#8, 0xA8#8]) =
      some (some [0xBB#8, 0x00#8, 0x09#8, 0x00#8, 0x01#8, 0xFF#8, 0xFF#8, 0xFF#8, 0xFF#8, 0x30#8, 0x11#8, 0x00#8,
        0x00#8, 0x92#8]) := by decide
/-- V-O8. -/
theorem test_setChannels :
    afterTick (fun t => (t.resp, t.univ)) (withPacket State.reset
      [0xAA#8, 0x01#8, 0x04#8, 0x00#8, 0xFE#8, 0x01#8, 0x01#8, 0x02#8, 0x53#8]) =
      some (some [0xBB#8, 0x00#8, 0x00#8, 0x00#8, 0xBB#8], [(510, 0x01#8), (511, 0x02#8)]) := by decide
/-- V-O10: the run passes channel 511, and nothing of it is written. -/
theorem test_setChannels_rejected_whole :
    afterTick (fun t => (t.resp, t.univ)) (withPacket State.reset
      [0xAA#8, 0x01#8, 0x04#8, 0x00#8, 0xFF#8, 0x01#8, 0x01#8, 0x02#8, 0x52#8]) =
      some (some [0xBB#8, 0xFF#8, 0x00#8, 0x00#8, 0x44#8], []) := by decide
/-- V-O16. -/
theorem test_blackout :
    afterTick (fun t => (t.resp, t.univ, t.enabled)) (withPacket
      { State.reset with univ := [(0, 0xFF#8), (1, 0x80#8), (511, 0x09#8)] }
      [0xAA#8, 0x05#8, 0x00#8, 0x00#8, 0xAF#8]) =
      some (some [0xBB#8, 0x00#8, 0x00#8, 0x00#8, 0xBB#8], [], false) := by decide +kernel
/-- V-T10: two fields are 0 and stay. -/
theorem test_setTiming :
    afterTick (fun t => (t.resp, t.refreshHz, t.breakUs, t.mabUs)) (withPacket State.reset
      [0xAA#8, 0x06#8, 0x06#8, 0x00#8, 0x00#8, 0x00#8, 0x00#8, 0x00#8, 0x08#8, 0x00#8, 0xA2#8]) =
      some (some [0xBB#8, 0x00#8, 0x00#8, 0x00#8, 0xBB#8], 44, 150, 8) := by decide
/-- V-T6: one field is out of range, and none is applied. -/
theorem test_setTiming_rejected_whole :
    afterTick (fun t => (t.resp, t.refreshHz, t.breakUs, t.mabUs)) (withPacket State.reset
      [0xAA#8, 0x06#8, 0x06#8, 0x00#8, 0x1E#8, 0x00#8, 0x57#8, 0x00#8, 0x14#8, 0x00#8, 0xF7#8]) =
      some (some [0xBB#8, 0xFF#8, 0x00#8, 0x00#8, 0x44#8], 44, 150, 12) := by decide
/-- V-O17. -/
theorem test_getTiming :
    afterTick State.resp (withPacket State.reset [0xAA#8, 0x07#8, 0x00#8, 0x00#8, 0xAD#8]) =
      some (some [0xBB#8, 0x00#8, 0x06#8, 0x00#8, 0x2C#8, 0x00#8, 0x96#8, 0x00#8, 0x0C#8, 0x00#8, 0x0B#8]) := by decide
/-- V-O25. -/
theorem test_systemReset :
    afterTick (fun t => (t.resp, t.pendingRst)) (withPacket optionReset
      [0xAA#8, 0x08#8, 0x04#8, 0x00#8, 0x78#8, 0x56#8, 0x34#8, 0x12#8, 0xAE#8]) =
      some (some [0xBB#8, 0x00#8, 0x00#8, 0x00#8, 0xBB#8], true) := by decide
/-- V-O24, V-O21: the wrong guard, and a block without the option. -/
theorem test_systemReset_rejected :
    afterTick (fun t => (t.resp, t.pendingRst)) (withPacket optionReset
      [0xAA#8, 0x08#8, 0x04#8, 0x00#8, 0x11#8, 0x56#8, 0x34#8, 0x12#8, 0xC7#8]) =
      some (some [0xBB#8, 0xFF#8, 0x00#8, 0x00#8, 0x44#8], false) ∧
    afterTick (fun t => (t.resp, t.pendingRst)) (withPacket State.reset [0xAA#8, 0x08#8, 0x00#8, 0x00#8, 0xA2#8]) =
      some (some [0xBB#8, 0x03#8, 0x00#8, 0x00#8, 0xB8#8], false) := by decide
/-- V-O20. -/
theorem test_reserved :
    afterTick State.resp (withPacket State.reset [0xAA#8, 0xFF#8, 0x00#8, 0x00#8, 0x55#8]) =
      some (some [0xBB#8, 0x03#8, 0x00#8, 0x00#8, 0xB8#8]) := by decide
/-- V-F11: a wrong checksum; UNIV unchanged. -/
theorem test_badChecksum :
    afterTick (fun t => (t.resp, t.univ, t.rstate)) (withPacket State.reset
      [0xAA#8, 0x01#8, 0x03#8, 0x00#8, 0x00#8, 0x00#8, 0x07#8, 0x00#8]) =
      some (some [0xBB#8, 0x02#8, 0x00#8, 0x00#8, 0xB9#8], [], .idle) := by decide
/-- A table word as the first instruction after reset: the next step runs it. -/
theorem test_fetchWord :
    afterTick State.resp (State.reset.withFetchWord 32 0x000004AA) =
      some (some [0xBB#8, 0x00#8, 0x00#8, 0x00#8, 0xBB#8]) ∧
    afterTick State.resp (State.reset.withFetchWord 32 0x000001AA) =
      some (some [0xBB#8, 0x04#8, 0x00#8, 0x00#8, 0xBF#8]) := by decide
/-- V-R1, V-R2: a reset tick with a byte presented. -/
theorem test_reset_tick :
    afterTick (fun t => (t.nowUs, t.estate, t.line, t.resp)) { State.reset with
      nowUs := 100, estate := .brk, phaseCnt := 3, line := false,
      inputs := [⟨true, some 0xAA#8⟩] } = some (0, .idle, true, none) := by decide

/-! ## The line and the rate -/

/-- 2.6: the bytes 0x80, 0x01 and 0x55, cell by cell; the stop bits are two cells. -/
theorem test_slotBit :
    (List.range 11).map (slotBit 0x80#8) =
      [false, false, false, false, false, false, false, false, true, true, true] ∧
    (List.range 11).map (slotBit 0x01#8) =
      [false, true, false, false, false, false, false, false, false, true, true] ∧
    (List.range 11).map (slotBit 0x55#8) =
      [false, true, false, true, false, true, false, true, false, true, true] := by decide
/-- 1.2: 45 frames in 1022 ms give 4403. -/
theorem test_fps :
    (fpsSample { State.reset with nowUs := 1022287, winStart := 4, winFrames := 45 }).fpsX100 = 4403 ∧
    (fpsSample { State.reset with nowUs := 1000003, winStart := 4, winFrames := 45 }).fpsX100 = 0 := by decide
/-- V-S1: the first data tick at a depth of 16: 16 bytes pushed, one loaded. -/
theorem test_data_entry :
    afterTick (fun t => (t.estate, t.cursor, t.fifo.length, t.shActive, t.line)) { State.reset with
      estate := .mab, phaseCnt := 1, latBreak := 150, latMab := 12 } = some (.data, 16, 15, true, false) := by decide
/-- The last tick of MAB, with a queue as deep as the frame. -/
def deepEntry : State :=
  { State.resetWith { Config.resetParams with txFifoDepth := Pos.of 513 } with
    estate := .mab, phaseCnt := 1, latBreak := 150, latMab := 12 }
/-- R160: with a queue as deep as the frame, it completes in its first data tick. -/
theorem test_data_entry_deep :
    afterTick (fun t => (t.estate, t.frameCount, t.fifo.length)) deepEntry = some (.idle, 1, 512) := by decide +kernel
/-- R157: the snapshot's first byte is the start code, its last the last channel. -/
theorem test_snapshot : snapshot [(0, 0xFF#8), (511, 0x09#8)] = [(1, 0xFF#8), (512, 0x09#8)] := by decide +kernel

/-! ## Command programs -/

/-- R104: a line follows the one before it, `@t` waits, and an `@t` that has passed is refused. -/
theorem test_schedule :
    (schedule 0 [⟨some 2, .raw [0x55#8]⟩, ⟨none, .op (.enable [])⟩]).map (List.map PortInput.rx) =
      some [none, none, some 0x55#8, some 0xAA#8, some 0x03#8, some 0x00#8, some 0x00#8, some 0xA9#8] ∧
    schedule 0 [⟨none, .wait 3⟩, ⟨some 1, .raw []⟩] = none := by decide
/-- R105: the pseudo-operations' packets: `SET_CHANNEL 512, 9` is V-O13, `SET_MAB 8` is V-T10. -/
theorem test_pseudo_operations :
    encode (opSetChannel 512 0x09#8) = [0xAA#8, 0x01#8, 0x03#8, 0x00#8, 0xFF#8, 0x01#8, 0x09#8, 0x5F#8] ∧
    encode (opSetMab 8) =
      [0xAA#8, 0x06#8, 0x06#8, 0x00#8, 0x00#8, 0x00#8, 0x00#8, 0x00#8, 0x08#8, 0x00#8, 0xA2#8] := by decide

/-! ## Witnesses: states and operands that meet the hypotheses of each statement, at the boundaries of its clauses -/

set_option synthInstance.maxSize 2000

/-- ENABLE complete but for its last byte. -/
def enablePending : State := withPacket State.reset [0xAA#8, 0x03#8, 0x00#8, 0x00#8, 0xA9#8]

/-- An enabled block on idle ports: a frame starts in its first tick. -/
def ready : State := { State.reset with enabled := true }

/-- `ready` after its first tick. -/
def started : State := { frameStart ready with line := false, nowUs := 1 }

theorem test_started : startsFrame ready started := ⟨rfl, rfl, rfl⟩

/-- A receiver in state `st` after `buf`. -/
def receiving (st : RState) (buf : List Byte) (len cnt : Nat) : State :=
  { State.reset with
    rstate := st, rxbuf := Memory.setRun [] 0 buf, rxpos := BitVec.ofNat 11 buf.length,
    rxlen := BitVec.ofNat 16 len, rxcnt := BitVec.ofNat 11 cnt }

/-- A frame in BREAK, with two ticks of it left. -/
def inBreak : State := { State.reset with estate := .brk, phaseCnt := 2, latBreak := 150, latMab := 12 }

/-- A frame in DATA with its last byte still to push, at tick `now`. -/
def lastByteLeft (now : Tick) : State :=
  { State.reset with
    estate := .data, latBreak := 150, latMab := 12, cursor := 512, shActive := true, frameCount := 7, fpsX100 := 4400,
    winFrames := 44, nowUs := now }

/-- V-L1: the first tick after reset, on idle ports. -/
theorem test_reset_steps :
    ∃ t, step State.reset = .next t ∧ t.resp = none ∧ t.nowUs = 1 := ⟨_, rfl, rfl, by decide⟩

theorem test_witness_StepRunsDecodedInstruction :
    enablePending.Inv ∧ enablePending.resetNow = false ∧ enablePending.portInput.rx = some 0xA9#8 ∧
    enablePending.rstate = .checksum ∧
    decode (Memory.slice enablePending.rxbuf 0 (4 + enablePending.rxlen.toNat) ++ [0xA9#8]) =
      .ok (.enable [], []) := by decide
theorem test_witness_DecodeInvertsEncode :
    Instr.wf (.setTiming (.fields 44 88 100)) = true ∧ Instr.wf (.setTiming (.badLength [])) = true ∧
    Instr.wf (.systemReset (.guard 0xFFFFFFFF#32)) = true := by decide
theorem test_witness_DecodedBytesAreItsPacket :
    decode [0xAA#8, 0x04#8, 0x00#8, 0x00#8, 0xAE#8, 0x01#8] = .ok (.disable [], [0x01#8]) := by decide
theorem test_witness_FetchedWordRuns :
    Memory.wf State.reset.rxbuf = true ∧ decodeTableWord 32 0x000003AA = some (.enable []) := by decide
theorem test_witness_CodecRoundTrip : ([0x01#8, 0x02#8] : List Byte).length ≤ 65535 := by decide
theorem test_witness_CodecDetectsChangedByte :
    codecCheck [0xBB#8, 0x00#8, 0x00#8, 0x00#8, 0xBB#8] 0xBB#8 = .ok (0x00#8, []) ∧
    4 < ([0xBB#8, 0x00#8, 0x00#8, 0x00#8, 0xBB#8] : List Byte).length ∧ 0x80#8 ≠ 0x00#8 := by decide
theorem test_witness_SetChannelsWritesItsRun :
    State.reset.Inv ∧ (510#16).toNat + [0x01#8, 0x02#8].length ≤ 512 ∧
    (512#16).toNat + ([] : List Byte).length ≤ 512 := by decide
theorem test_witness_SetChannelsRejectedWhole :
    512 < (511#16).toNat + [0x01#8, 0x02#8].length ∧ 512 < (513#16).toNat + ([] : List Byte).length ∧
    512 < (65535#16).toNat + [0x01#8].length := by decide
theorem test_witness_BlackoutZeroesUniverse : State.Inv { State.reset with univ := [(511, 0x09#8)] } := by decide
theorem test_witness_SetTimingAppliesDeltas (r b m : Half)
    (h : (r, b, m) ∈ [(0#16, 0#16, 0#16), (1#16, 88#16, 8#16), (44#16, 1000#16, 100#16)]) :
    (r = 0 ∨ 1 ≤ r.toNat ∧ r.toNat ≤ 44) ∧ (b = 0 ∨ 88 ≤ b.toNat ∧ b.toNat ≤ 1000) ∧
      (m = 0 ∨ 8 ≤ m.toNat ∧ m.toNat ≤ 100) := by
  simp only [List.mem_cons, List.not_mem_nil, or_false, Prod.mk.injEq] at h
  rcases h with ⟨rfl, rfl, rfl⟩ | ⟨rfl, rfl, rfl⟩ | ⟨rfl, rfl, rfl⟩ <;> decide
theorem test_witness_SetTimingRejectedWhole :
    (45#16 ≠ 0 ∧ 44 < (45#16).toNat) ∧ (87#16 ≠ 0 ∧ (87#16).toNat < 88) ∧
    (1001#16 ≠ 0 ∧ 1000 < (1001#16).toNat) ∧ (7#16 ≠ 0 ∧ (7#16).toNat < 8) ∧ (101#16 ≠ 0 ∧ 100 < (101#16).toNat) := by decide
theorem test_witness_SystemResetSetsPending : optionReset.params.hasSystemReset = true := by decide
theorem test_witness_SystemResetRejected :
    optionReset.params.hasSystemReset = true ∧ 0x12345611#32 ≠ optionReset.params.resetMagic := by decide
theorem test_witness_ReservedCodeAnswersInvalidCmd :
    reservedCode 0x00#8 = true ∧ reservedCode 0x09#8 = true ∧ reservedCode 0xFF#8 = true ∧
    State.reset.params.hasSystemReset = false := by decide
theorem test_witness_RepeatedOperationChangesNothing :
    ready.Inv ∧ ∃ t, exec (.disable []) ready = .next t := ⟨by decide, _, rfl⟩
theorem test_witness_ReceiverTransitionTable :
    (∀ s ∈ [receiving .idle [] 0 0, receiving .cmd [0xAA#8] 0 0, receiving .lenLo [0xAA#8, 0x01#8] 0 0,
      receiving .lenHi [0xAA#8, 0x01#8, 0x01#8] 0 0, receiving .lenHi [0xAA#8, 0x01#8, 0x00#8] 0 0,
      receiving .data [0xAA#8, 0x01#8, 0x02#8, 0x00#8] 2 0,
      receiving .data [0xAA#8, 0x01#8, 0x02#8, 0x00#8, 0x07#8] 2 1,
      receiving .checksum [0xAA#8, 0x01#8, 0x00#8, 0x00#8] 0 0], s.Inv) ∧
    (le16 0x01#8 0x04#8).toNat = 1025 ∧ (le16 0x00#8 0x04#8).toNat = 1024 ∧ (le16 0x01#8 0x00#8).toNat = 1 ∧
    (le16 0x00#8 0x00#8).toNat = 0 ∧ xorsum [0xAA#8, 0x01#8, 0x00#8, 0x00#8] = 0xAB#8 := by decide
theorem test_witness_NonMagicByteDiscarded : State.reset.rstate = .idle ∧ 0xAB#8 ≠ 0xAA#8 := by decide
theorem test_witness_NoByteKeepsReceiver :
    (receiving .lenLo [0xAA#8, 0x01#8] 0 0).resetNow = false ∧
    (receiving .lenLo [0xAA#8, 0x01#8] 0 0).portInput.rx = none ∧
    ∃ t, step (receiving .lenLo [0xAA#8, 0x01#8] 0 0) = .next t := ⟨by decide, by decide, _, rfl⟩
theorem test_witness_BadChecksumAnswered :
    enablePending.Inv ∧ enablePending.rstate = .checksum ∧
    0xA8#8 ≠ xorsum (Memory.slice enablePending.rxbuf 0 (4 + enablePending.rxlen.toNat)) := by decide
theorem test_witness_OverLengthAbandoned :
    (receiving .lenHi [0xAA#8, 0x01#8, 0x01#8] 0 0).Inv ∧
    1024 < (le16 (Memory.get (receiving .lenHi [0xAA#8, 0x01#8, 0x01#8] 0 0).rxbuf 2) 0x04#8).toNat := by decide
theorem test_witness_ReceiverReturnsAfterChecksum :
    enablePending.rstate = .checksum ∧ ∃ t, receiverStep 0xA9#8 enablePending = .next t := ⟨rfl, _, rfl⟩
theorem test_witness_PacketDispatchesItsOperation :
    Instr.wf (.setChannels (.run 510 [0x01#8, 0x02#8])) = true ∧ Memory.wf State.reset.rxbuf = true ∧
    State.reset.rstate = .idle := by decide
/-- A payload of 1024 bytes, none of it received yet: 1025 more bytes. -/
theorem test_witness_ZeroBytesResynchronise :
    State.Inv { receiving .data [0xAA#8, 0x01#8, 0x00#8, 0x04#8] 1024 0 with
      inputs := List.replicate 1030 ⟨false, some 0x00#8⟩ } ∧
    (List.replicate 1030 (PortInput.mk false (some 0x00#8))).take 1030 =
      List.replicate 1030 ⟨false, some 0x00#8⟩ := ⟨by decide, by rw [List.take_replicate, Nat.min_self]⟩
/-- A tick with a response and one without. -/
theorem test_witness_OneResponsePerPacket :
    (∃ t, step enablePending = .next t ∧ t.resp.isSome = true) ∧
    ∃ t, step State.reset = .next t ∧ t.resp.isSome = false := ⟨⟨_, rfl, rfl⟩, _, rfl, rfl⟩
theorem test_witness_ResponsesAreWellFormed :
    ∃ t, step (withPacket State.reset [0xAA#8, 0x07#8, 0x00#8, 0x00#8, 0xAD#8]) = .next t ∧
      t.resp = some (responsePacket .ok (timingPayload State.reset)) := ⟨_, rfl, rfl⟩
theorem test_witness_ResetTickResetsEverything :
    State.portInput { inBreak with inputs := [⟨true, some 0xAA#8⟩] } = ⟨true, some 0xAA#8⟩ ∧
    State.pendingRst { inBreak with pendingRst := true } = true := by decide
theorem test_witness_AcceptedSystemResetResetsNextTick :
    let s := withPacket optionReset [0xAA#8, 0x08#8, 0x04#8, 0x00#8, 0x78#8, 0x56#8, 0x34#8, 0x12#8, 0xAE#8]
    s.resetNow = false ∧ s.params.hasSystemReset = true ∧
    dispatched s = some (.systemReset (.guard s.params.resetMagic)) ∧ ∃ t, step s = .next t :=
  ⟨by decide, by decide, by decide, _, rfl⟩
/-- The interval at 44 Hz is 22727 ticks: a start in that tick, none in the one before; none in a disabled block. -/
theorem test_witness_IdleStartsFrameExactlyWhenAllowed :
    (∀ s ∈ [ready, { ready with lastStartValid := true, nowUs := 22727 },
      { ready with lastStartValid := true, nowUs := 22726 }, State.reset],
      s.Inv ∧ ClockLegal s ∧ s.estate = .idle) ∧
    startOk { ready with lastStartValid := true, nowUs := 22727 } = true ∧
    startOk { ready with lastStartValid := true, nowUs := 22726 } = false ∧ startOk State.reset = false := by decide
theorem test_witness_SnapshotTakenAtFrameStartOnly :
    ready.Inv ∧ startsFrame ready started ∧
    ∃ t, step inBreak = .next t ∧ inBreak.resetNow = false ∧ ¬startsFrame inBreak t :=
  ⟨by decide, test_started, _, rfl, rfl, fun h => nomatch h.1⟩
theorem test_witness_FrameStartsAreSpaced :
    let s := { ready with lastStartValid := true, nowUs := 22727 }
    ClockLegal s ∧ s.lastStartValid = true ∧ ∃ t, startsFrame s t := ⟨by decide, rfl, _, rfl, rfl, rfl⟩
/-- BREAK is ticks 0 to 149 of the frame, MAB 150 to 161, data 162 to 22733 (V-S1, V-S3 from tick 4 on). -/
theorem test_witness_FrameTimelineOnTheLine :
    ready.Inv ∧ startsFrame ready started ∧
    (∀ n, noResetFor (n + 1) ready = true) ∧
    started.latBreak.toNat = 150 ∧ started.latMab.toNat = 12 ∧ ready.params.slotUs = 44 ∧
    162 < 150 + 12 + 513 * 44 ∧ 22733 < 150 + 12 + 513 * 44 :=
  ⟨by decide, test_started, fun n => noResetFor_quiet (n + 1) rfl rfl, by decide, by decide, by decide, by decide,
    by decide⟩
/-- Its last tick in DATA is 21986, 162 + 496·44 (V-S2: completion at tick 4 + 21987). -/
theorem test_witness_FrameCompletesAtItsTick :
    ready.Inv ∧ startsFrame ready started ∧ (∀ n, noResetFor (n + 1) ready = true) ∧ ready.params.depth = 16 ∧
    150 + 12 ≤ 162 ∧ 21986 < 150 + 12 + (512 - 16) * 44 + 1 ∧ 22733 + 1 = 150 + 12 + 513 * 44 :=
  ⟨by decide, test_started, fun n => noResetFor_quiet (n + 1) rfl rfl, by decide, by decide, by decide, by decide⟩
/-- At 44 Hz the line time is the longer, at 30 Hz the interval is (V-S4, V-S5). -/
theorem test_witness_FramePeriodIsExact :
    (∀ s ∈ [ready, { ready with refreshHz := 30 }],
      s.Inv ∧ s.inputs = [] ∧ s.pendingRst = false ∧
      s.nowUs.toNat + max (1000000 / s.refreshHz.toNat)
        (s.breakUs.toNat + s.mabUs.toNat + 513 * s.params.slotUs) < 2 ^ 64 - 1) ∧
    startsFrame ready started ∧ startsFrame { ready with refreshHz := 30 } { started with refreshHz := 30 } :=
  ⟨by decide, test_started, rfl, rfl, rfl⟩
theorem test_witness_FrameInFlightIgnoresTheHost :
    let s := inBreak
    let s' := { inBreak with
      enabled := true, univ := [(0, 0x55#8)], breakUs := 1000, inputs := [⟨false, some 0xAA#8⟩] }
    s.frameView = s'.frameView ∧ s.estate ≠ .idle ∧ s.resetNow = false ∧ s'.resetNow = false ∧
    (∃ t, step s = .next t) ∧ ∃ t', step s' = .next t' := ⟨rfl, nofun, rfl, rfl, ⟨_, rfl⟩, _, rfl⟩
/-- A push that fills the FIFO, one with nothing left to push, one that pushes the last byte, and one on a dry line, which
is an underrun outside the entry tick. -/
theorem test_witness_DataPushFillsTheQueue :
    (∀ s ∈ [State.reset, { State.reset with cursor := 513, fifo := List.replicate 16 0x00#8 }, lastByteLeft 0],
      s.cursor.toNat ≤ 513 ∧ s.fifo.length ≤ s.params.depth) ∧
    0 + min (513 - 0) (16 - 0) < 513 ∧ 513 + min (513 - 513) (16 - 16) = 513 ∧
    512 + min (513 - 512) (16 - 0) = 513 ∧ State.reset.fifo = [] ∧ State.reset.shActive = false := by decide
theorem test_witness_FrameCompletionCounts :
    (∀ s ∈ [{ State.reset with nowUs := 1000000 }, { State.reset with nowUs := 999999, underrun := true }],
      ClockLegal s) ∧ (1000000 - 0) / 1000 = 1000 ∧ (999999 - 0) / 1000 = 999 := by decide
theorem test_witness_SlotTakesSlotUsTicks :
    let s := { State.reset with fifo := [0x55#8, 0x80#8] }
    s.estate = .idle ∧ s.shActive = false ∧ s.fifo = 0x55#8 :: [0x80#8] ∧ 0 < s.params.slotUs ∧
    43 < s.params.slotUs ∧ 43 + 1 = s.params.slotUs := by decide
/-- A tick that ends in BREAK, one that ends in MAB, one with nothing to send. -/
theorem test_witness_LineLevelFollowsState :
    (∃ t, step inBreak = .next t ∧ t.estate = .brk) ∧
    (∃ t, step { inBreak with phaseCnt := 1 } = .next t ∧ t.estate = .mab) ∧
    ∃ t, step State.reset = .next t ∧ t.estate = .idle ∧ State.reset.estate = .idle ∧
      drained State.reset = true := ⟨⟨_, rfl, rfl⟩, ⟨_, rfl, rfl⟩, _, rfl, rfl, rfl, rfl⟩
/-- StepKeepsInvariant, BlockNeverStops, NoFrameUnderruns, TimingRegistersStayLegal and RecordedTicksNotAhead: the premises
of all five, of a block in the middle of a frame. -/
theorem test_witness_invariants :
    inBreak.Inv ∧ TimingLegal inBreak ∧ ClockLegal inBreak ∧ inBreak.nowUs.toNat + 1 < 2 ^ 64 ∧
    inBreak.resetNow = false ∧ ∃ t, step inBreak = .next t :=
  ⟨by decide, by decide, by decide, by decide, rfl, _, rfl⟩
/-- The last tick the statement covers, and a reset tick. -/
theorem test_witness_ClockCountsTicks :
    (∃ t, step { State.reset with nowUs := BitVec.ofNat 64 (2 ^ 64 - 2) } = .next t) ∧
    (BitVec.ofNat 64 (2 ^ 64 - 2)).toNat + 1 < 2 ^ 64 ∧
    (∃ t, step { State.reset with pendingRst := true } = .next t) ∧
    State.resetNow { State.reset with pendingRst := true } = true := ⟨⟨_, rfl⟩, by decide, ⟨_, rfl⟩, rfl⟩
/-- OnlyOperationsWriteUniverse, OnlySetTimingWritesTiming and OnlyEnableDisableWriteEnabled: a tick that dispatches
GET_STATUS. -/
theorem test_witness_dispatching_another_operation :
    let s := withPacket State.reset [0xAA#8, 0x02#8, 0x00#8, 0x00#8, 0xA8#8]
    s.resetNow = false ∧ dispatched s = some (.getStatus []) ∧ (∃ t, step s = .next t) ∧
    (∀ op, some (Instr.getStatus []) ≠ some (.setChannels op)) ∧ (∀ p, some (Instr.getStatus []) ≠ some (.blackout p)) ∧
    (∀ op, some (Instr.getStatus []) ≠ some (.setTiming op)) ∧ (∀ p, some (Instr.getStatus []) ≠ some (.enable p)) ∧
    ∀ p, some (Instr.getStatus []) ≠ some (.disable p) :=
  ⟨rfl, by decide, ⟨_, rfl⟩, by simp, by simp, by simp, by simp, by simp⟩
/-- A completion 1000 ms into the window and one 999 ms into it, on idle ports, and one whose tick dispatches ENABLE. -/
theorem test_witness_CompletedFrameIsCounted :
    (∀ s ∈ [lastByteLeft 1000000, lastByteLeft 999999],
      s.Inv ∧ ClockLegal s ∧ s.resetNow = false ∧ s.estate = .data ∧ dispatched s = none ∧
      afterTick State.estate s = some .idle) ∧
    (1000000 - 0) / 1000 = 1000 ∧ (999999 - 0) / 1000 = 999 ∧
    let s := withPacket (lastByteLeft 1000000) [0xAA#8, 0x03#8, 0x00#8, 0x00#8, 0xA9#8]
    s.Inv ∧ ClockLegal s ∧ s.resetNow = false ∧ s.estate = .data ∧ dispatched s = some (.enable []) ∧
      afterTick State.estate s = some .idle := by decide
/-- From MAB: `test_data_entry_deep` shows that the tick ends in IDLE. -/
theorem test_witness_CompletedFrameIsCounted_mab :
    deepEntry.Inv ∧ ClockLegal deepEntry ∧ deepEntry.resetNow = false ∧ deepEntry.estate = .mab ∧
    dispatched deepEntry = none := by decide
/-- R160, R161: what the three ticks from DATA leave (FRAME_COUNT, FPS_X100, WIN_FRAMES). -/
theorem test_completion_counters :
    afterTick (fun t => (t.frameCount, t.fpsX100, t.winFrames)) (lastByteLeft 1000000) = some (8, 4500, 0) ∧
    afterTick (fun t => (t.frameCount, t.fpsX100, t.winFrames)) (lastByteLeft 999999) = some (8, 4400, 45) ∧
    afterTick (fun t => (t.frameCount, t.fpsX100, t.winFrames))
      (withPacket (lastByteLeft 1000000) [0xAA#8, 0x03#8, 0x00#8, 0x00#8, 0xA9#8]) = some (1, 0, 1) := by decide
/-- A tick in BREAK, and one that dispatches ENABLE with no frame in flight. -/
theorem test_witness_OnlyCompletionAndEnableWriteCounters :
    (∃ t, step inBreak = .next t ∧ inBreak.resetNow = false ∧ dispatched inBreak = none ∧
      ¬((inBreak.estate = .mab ∨ inBreak.estate = .data) ∧ t.estate = .idle)) ∧
    ∃ t, step enablePending = .next t ∧ enablePending.resetNow = false ∧
      dispatched enablePending = some (.enable []) ∧
      ¬((enablePending.estate = .mab ∨ enablePending.estate = .data) ∧ t.estate = .idle) :=
  ⟨⟨_, rfl, rfl, by decide, by decide⟩, _, rfl, rfl, by decide, by decide⟩

end Sys2Proof.Tests
end

section
/-! SUPPORT. The scope's statements (00_scope.md): which ticks emit a response, and what a tick does to the clock. -/

namespace Sys2Proof.Machine

/-! ## Which ticks emit a response (00_scope.md R20, 10_state.md R45) -/

/-- A complete packet is always answered: by INVALID_CHECKSUM (R123), or by the operation it selects (R131). -/
theorem validateAndDispatch_resp_isSome {b : Byte} {s t : State} (h : validateAndDispatch b s = .next t) :
    t.resp.isSome = true := by
  unfold validateAndDispatch at h
  split_ifs at h
  · cases h; rfl
  · obtain ⟨_, _, hresp, -⟩ := exec_responds h
    rw [hresp, Option.isSome_some]

theorem receiverStep_resp_isSome {b : Byte} {s t : State} (hst : s.rstate = .checksum)
    (h : receiverStep b s = .next t) : t.resp.isSome = true := by
  simp only [receiverStep, hst] at h
  split_ifs at h
  obtain ⟨u, hu, rfl⟩ := andThen_eq_next h
  rw [toReceiverIdle_resp]
  exact validateAndDispatch_resp_isSome hu

/-- A byte taken before the checksum's turn is stored, dropped, or ends the packet silently (R121, R122). -/
theorem receiverStep_resp_of_ne_checksum {b : Byte} {s t : State} (hst : s.rstate ≠ .checksum)
    (h : receiverStep b s = .next t) : t.resp = s.resp := by
  cases hr : s.rstate with
  | idle => simp only [receiverStep, hr] at h; cases h; split_ifs <;> rfl
  | cmd => simp only [receiverStep, hr] at h; cases h; rfl
  | lenLo => simp only [receiverStep, hr] at h; cases h; rfl
  | lenHi => simp only [receiverStep, hr] at h; cases h; simp only [receiveLenHi]; split_ifs <;> rfl
  | data =>
    simp only [receiverStep, hr] at h
    split_ifs at h
    cases h; simp only [receiveData]; split_ifs <;> rfl
  | checksum => exact absurd hr hst

/-- Phase 1, begun with no response out, emits one exactly when it takes a byte in R_CHECKSUM. -/
theorem commandPort_resp_isSome_iff {rx : Option Byte} {s t : State} (hs : s.resp = none)
    (h : commandPort rx s = .next t) :
    t.resp.isSome = true ↔ s.rstate = .checksum ∧ rx.isSome = true := by
  cases rx with
  | none => cases h; simp [hs]
  | some b =>
    by_cases hst : s.rstate = .checksum
    · simp [receiverStep_resp_isSome hst h, hst]
    · simp [receiverStep_resp_of_ne_checksum hst h, hs, hst]

/-- Settles O30: a reset tick clears the response, and in any other tick only phase 1 writes it. -/
theorem oneResponsePerPacket : Obligations.OneResponsePerPacket := by
  intro s t h
  rcases step_cases h with ⟨hreset, rfl⟩ | ⟨hreset, u, hu, rfl⟩
  · simp [hreset, State.resetWith]
  · rw [finishTick_resp, commandPort_resp_isSome_iff rfl hu]
    exact (and_iff_right hreset).symm

/-! ## The clock (00_scope.md R10, 10_state.md R44) -/

/-- A tick that is no reset tick moves the clock to the next tick: none of its phases writes NOW_US. -/
theorem step_nowUs {s t : State} (h : step s = .next t) (hr : s.resetNow = false) : t.nowUs = nextTick s.nowUs := by
  rcases step_cases h with ⟨hreset, -⟩ | ⟨-, u, hu, rfl⟩
  · rw [hr] at hreset; cases hreset
  · obtain ⟨-, -, hnow, -⟩ := commandPort_frameView hu
    rw [finishTick_nowUs, hnow, beginTick_nowUs]

theorem step_nowUs_of_reset {s t : State} (h : step s = .next t) (hr : s.resetNow = true) : t.nowUs = 0 := by
  rcases step_cases h with ⟨-, rfl⟩ | ⟨hreset, -⟩
  · rfl
  · rw [hr] at hreset; cases hreset

/-- Settles O52, from what a reset tick and any other tick leave in NOW_US. -/
theorem clockCountsTicks : Obligations.ClockCountsTicks := by
  intro s t h
  refine ⟨step_nowUs_of_reset h, fun hr hlast => ?_⟩
  rw [step_nowUs h hr, nextTick_toNat hlast]

end Sys2Proof.Machine
end

section
/-! SUPPORT. The statements of 10_state.md: the reset values, who may write each register, and the invariant that every
tick keeps. -/

namespace Sys2Proof.Machine

/-! ## What one operation does (41_commands.md) -/

/-- The state an operation leaves: six kinds of write, each with its response, or the response alone. -/
inductive ExecEffect (s : State) : Instr → State → Prop
  | setChannels {start : Half} {values : List Byte} (h : runInRange start values = true) :
      ExecEffect s (.setChannels (.run start values))
        ({ s with univ := Memory.setRun s.univ start.toNat values }.respond .ok [])
  | blackout (p : List Byte) {m : Memory}
      (h : m = Memory.setRun s.univ 0 (List.replicate Config.universeSize 0x00#8)) :
      ExecEffect s (.blackout p) ({ s with univ := m }.respond .ok [])
  | enable (p : List Byte) :
      ExecEffect s (.enable p)
        ({ s with enabled := true, frameCount := 0, fpsX100 := 0, winFrames := 0, winStart := s.nowUs }.respond .ok [])
  | disable (p : List Byte) : ExecEffect s (.disable p) ({ s with enabled := false }.respond .ok [])
  | setTiming {r b m : Half} (h : timingOk r b m = true) :
      ExecEffect s (.setTiming (.fields r b m))
        ({ s with
          refreshHz := deltaUpdate r s.refreshHz, breakUs := deltaUpdate b s.breakUs,
          mabUs := deltaUpdate m s.mabUs }.respond .ok [])
  | systemReset (h : s.params.hasSystemReset = true) :
      ExecEffect s (.systemReset (.guard s.params.resetMagic)) { s.respond .ok [] with pendingRst := true }
  | respond (i : Instr) (st : Status) (payload : List Byte) : ExecEffect s i (s.respond st payload)

/-- `exec` does what `ExecEffect` lists, and always answers a next state. -/
theorem exec_total_effect (i : Instr) (s : State) : ∃ t, exec i s = .next t ∧ ExecEffect s i t := by
  cases i with
  | setChannels op =>
    cases op with
    | short p => exact ⟨_, rfl, .respond _ _ _⟩
    | run start values =>
      by_cases h : runInRange start values = true
      · exact ⟨_, exec_setChannels_inRange s h, .setChannels h⟩
      · exact ⟨_, exec_setChannels_outOfRange s h, .respond _ _ _⟩
  | getStatus p => exact ⟨_, rfl, .respond _ _ _⟩
  | enable p => exact ⟨_, rfl, .enable p⟩
  | disable p => exact ⟨_, rfl, .disable p⟩
  | blackout p => exact ⟨_, rfl, .blackout p rfl⟩
  | setTiming op =>
    cases op with
    | badLength p => exact ⟨_, rfl, .respond _ _ _⟩
    | fields r b m =>
      by_cases h : timingOk r b m = true
      · exact ⟨_, exec_setTiming_legal s h, .setTiming h⟩
      · exact ⟨_, exec_setTiming_illegal s h, .respond _ _ _⟩
  | getTiming p => exact ⟨_, rfl, .respond _ _ _⟩
  | systemReset op =>
    cases hp : s.params.hasSystemReset with
    | false => exact ⟨_, exec_systemReset_absent op hp, .respond _ _ _⟩
    | true =>
      cases op with
      | badLength p => exact ⟨_, exec_systemReset_badLength p hp, .respond _ _ _⟩
      | guard m =>
        by_cases hm : m = s.params.resetMagic
        · subst hm; exact ⟨_, exec_systemReset_guard hp, .systemReset hp⟩
        · exact ⟨_, exec_systemReset_wrongGuard hp hm, .respond _ _ _⟩
  | reserved c p => exact ⟨_, rfl, .respond _ _ _⟩

theorem exec_effect {i : Instr} {s t : State} (h : exec i s = .next t) : ExecEffect s i t := by
  obtain ⟨u, hu, heff⟩ := exec_total_effect i s
  rw [hu, Host.Outcome.next.injEq] at h
  exact h ▸ heff

/-- Phase 1 of a tick that is no reset tick: no register an operation could write changes, but for the response, or the
operation that `dispatched` names has its effect and the receiver returns to R_IDLE. -/
theorem commandPort_effect {s u : State} (hr : s.resetNow = false)
    (h : commandPort s.portInput.rx s.beginTick = .next u) :
    opWrites s.beginTick u = opWrites s.beginTick { s.beginTick with resp := u.resp } ∨
      ∃ i b v, dispatched s = some i ∧ ExecEffect (s.beginTick.storeRx b) i v ∧ u = v.toReceiverIdle := by
  rcases commandPort_cases h with hkeep | ⟨b, v, hrx, hst, hsum, hv, rfl⟩
  · exact .inl hkeep
  · exact .inr ⟨_, b, v, dispatched_eq hr hrx hst hsum, exec_effect hv, rfl⟩

/-- A tick that is no reset tick: phase 1, then phases 2 and 3. -/
theorem step_of_no_reset {s t : State} (h : step s = .next t) (hr : s.resetNow = false) :
    ∃ u, commandPort s.portInput.rx s.beginTick = .next u ∧ t = u.finishTick := by
  rcases step_cases h with ⟨hreset, -⟩ | ⟨-, hphases⟩
  · rw [hr] at hreset; cases hreset
  · exact hphases

/-! ## Who writes a register -/

/-- Settles O54: of the effects of an operation, only those of SET_CHANNELS and BLACKOUT write UNIV, and phases 2 and 3
leave it alone. -/
theorem onlyOperationsWriteUniverse : Obligations.OnlyOperationsWriteUniverse := by
  intro s t h hr hsc hbo a
  obtain ⟨u, hu, rfl⟩ := step_of_no_reset h hr
  suffices huniv : u.univ = s.univ by rw [finishTick_univ, huniv]
  rcases commandPort_effect hr hu with hkeep | ⟨i, b, v, hd, heff, rfl⟩
  · exact (congrArg State.univ hkeep :)
  · cases heff with
    | setChannels => exact absurd hd (hsc _)
    | blackout p => exact absurd hd (hbo p)
    | _ => simp

/-- No tick writes the build parameters (R27). -/
theorem step_params {s t : State} (h : step s = .next t) : t.params = s.params := by
  rcases step_cases h with ⟨-, rfl⟩ | ⟨-, u, hu, rfl⟩
  · rfl
  · rw [finishTick_params]
    exact congrArg FrameView.params (commandPort_frameView hu).1

/-- Settles O55: of the effects of an operation, only SET_TIMING's writes the timing registers. -/
theorem onlySetTimingWritesTiming : Obligations.OnlySetTimingWritesTiming := by
  intro s t h
  refine ⟨step_params h, fun hr hst => ?_⟩
  obtain ⟨u, hu, rfl⟩ := step_of_no_reset h hr
  rw [finishTick_refreshHz, finishTick_breakUs, finishTick_mabUs]
  rcases commandPort_effect hr hu with hkeep | ⟨i, b, v, hd, heff, rfl⟩
  · exact ⟨(congrArg State.refreshHz hkeep :), (congrArg State.breakUs hkeep :), (congrArg State.mabUs hkeep :)⟩
  · cases heff with
    | setTiming => exact absurd hd (hst _)
    | _ => simp

/-- Settles O56: of the effects of an operation, only those of ENABLE and DISABLE write ENABLED. -/
theorem onlyEnableDisableWriteEnabled : Obligations.OnlyEnableDisableWriteEnabled := by
  intro s t h hr hen hdis
  obtain ⟨u, hu, rfl⟩ := step_of_no_reset h hr
  rw [finishTick_enabled]
  rcases commandPort_effect hr hu with hkeep | ⟨i, b, v, hd, heff, rfl⟩
  · exact (congrArg State.enabled hkeep :)
  · cases heff with
    | enable p => exact absurd hd (hen p)
    | disable p => exact absurd hd (hdis p)
    | _ => simp

/-! ## The counters -/

/-- Phases 2 and 3 of a tick that completes no frame leave the counters alone. -/
theorem finishTick_counters {s : State}
    (h : ¬((s.estate = .mab ∨ s.estate = .data) ∧ s.finishTick.estate = .idle)) :
    s.finishTick.counters = s.counters := by
  have hseq : s.finishTick.counters = (sequencerStep s).counters := by simp [State.counters]
  rw [hseq]
  rcases sequencerStep_cases s with ⟨hfrom, x, hx, -⟩ | ⟨-, hkeep⟩
  · have hidle : (frameComplete x).estate = .idle := congrArg FrameView.estate (frameComplete_frameView x)
    exact absurd ⟨hfrom, by rw [finishTick_estate, hx, hidle]⟩ h
  · exact hkeep

/-- No operation writes ERROR_COUNT or LAST_COMPLETE (R29, R37). -/
theorem commandPort_errorCount_lastComplete {rx : Option Byte} {s t : State} (h : commandPort rx s = .next t) :
    t.errorCount = s.errorCount ∧ t.lastComplete = s.lastComplete := by
  rw [commandPort_eq_portWrites h]
  exact ⟨rfl, rfl⟩

/-- Phase 1 of a tick that does not dispatch ENABLE leaves the counters alone. -/
theorem commandPort_counters {s u : State} (hr : s.resetNow = false) (hen : ∀ p, dispatched s ≠ some (.enable p))
    (h : commandPort s.portInput.rx s.beginTick = .next u) : u.counters = s.counters := by
  obtain ⟨herr, hlast⟩ := commandPort_errorCount_lastComplete h
  rcases commandPort_effect hr h with hkeep | ⟨i, b, v, hd, heff, rfl⟩
  · simp only [State.counters, herr, hlast]
    have hfields := congrArg (fun x : State => (x.frameCount, x.fpsX100, x.winFrames, x.winStart)) hkeep
    simp only [opWrites, Prod.mk.injEq] at hfields
    obtain ⟨h1, h2, h3, h4⟩ := hfields
    simp [h1, h2, h3, h4]
  · cases heff with
    | enable p => exact absurd hd (hen p)
    | _ => simp [State.counters]

/-- Phase 1 of a tick that dispatches ENABLE clears the counters and starts the window at this tick (R133). -/
theorem commandPort_counters_of_enable {s u : State} {p : List Byte} (hd : dispatched s = some (.enable p))
    (h : commandPort s.portInput.rx s.beginTick = .next u) :
    u.counters = (0, 0, s.errorCount, 0, s.nowUs, s.lastComplete) := by
  obtain ⟨b, v, -, hv, rfl⟩ := commandPort_of_dispatched hd h
  cases hv
  rfl

/-- Settles O58: phases 2 and 3 write the counters only where they complete a frame, and phase 1 only for ENABLE. -/
theorem onlyCompletionAndEnableWriteCounters : Obligations.OnlyCompletionAndEnableWriteCounters := by
  intro s t h hr hcomp
  obtain ⟨u, hu, rfl⟩ := step_of_no_reset h hr
  have hestate : u.estate = s.estate := congrArg FrameView.estate (commandPort_frameView hu).1
  have hcount : u.finishTick.counters = u.counters := finishTick_counters (hestate ▸ hcomp)
  obtain ⟨herr, hlast⟩ := commandPort_errorCount_lastComplete hu
  simp only [State.counters, Prod.mk.injEq] at hcount
  obtain ⟨hfc, hfps, herr', hwf, hws, hlast'⟩ := hcount
  refine ⟨hlast'.trans hlast, herr'.trans herr, fun hen => ?_, fun ⟨p, hd⟩ => ?_⟩
  · have hkeep := commandPort_counters hr hen hu
    simp only [State.counters, Prod.mk.injEq] at hkeep
    obtain ⟨kfc, kfps, -, kwf, kws, -⟩ := hkeep
    exact ⟨hfc.trans kfc, hfps.trans kfps, hwf.trans kwf, hws.trans kws⟩
  · have hclear := commandPort_counters_of_enable hd hu
    simp only [State.counters, Prod.mk.injEq] at hclear
    obtain ⟨kfc, kfps, -, kwf, kws, -⟩ := hclear
    exact ⟨hfc.trans kfc, hfps.trans kfps, hwf.trans kwf, hws.trans kws⟩

/-! ## The reset state (R50) -/

/-- Settles O32: `State.resetWith` is R50's table, and a space with no byte listed reads as 0x00. -/
theorem resetValues : Obligations.ResetValues := by
  refine ⟨⟨Config.resetParams, rfl⟩, fun p => ⟨State.resetWith p, rfl, ?_⟩⟩
  simp [State.resetWith, Memory.get, Config.refreshDefault, Config.breakDefault, Config.mabDefault]

theorem resetWith_timingLegal (p : Params) : TimingLegal (State.resetWith p) := by
  simp [TimingLegal, State.resetWith, Config.refreshDefault, Config.breakDefault, Config.mabDefault, Config.refreshMin,
    Config.refreshMax, Config.breakMin, Config.breakMax, Config.mabMin, Config.mabMax]

/-- The spaces and the FIFO are empty, and an empty FRAME reads as the start code 0x00 (R31). -/
theorem resetWith_spacesLegal (p : Params) : SpacesLegal (State.resetWith p) :=
  ⟨⟨wf_nil, within_nil _⟩, ⟨wf_nil, within_nil _, rfl⟩, ⟨wf_nil, within_nil _⟩, Nat.zero_le _⟩

theorem resetWith_engineLegal (p : Params) : EngineLegal (State.resetWith p) := by
  simp [EngineLegal, State.resetWith]

theorem resetWith_receiverLegal (p : Params) : ReceiverLegal (State.resetWith p) := by
  simp [ReceiverLegal, State.resetWith]

theorem resetWith_inv (p : Params) : (State.resetWith p).Inv :=
  ⟨resetWith_timingLegal p, resetWith_spacesLegal p, resetWith_engineLegal p, resetWith_receiverLegal p,
    fun h => by cases h⟩

/-- Settles O49: each part of the invariant holds of R50's values, and both recorded ticks are the clock's 0. -/
theorem resetMeetsInvariant : Obligations.ResetMeetsInvariant :=
  ⟨resetWith_inv, resetWith_inv Config.resetParams, fun _ => ⟨Nat.le_refl _, Nat.le_refl _⟩⟩

/-! ## The timing registers stay legal (R24) -/

/-- A delta update with a field in range, or 0 for "leave unchanged", keeps a register in range (R138, R141). -/
theorem deltaUpdate_inRange {field register : Half} {lo hi : Nat} (hf : field = 0 ∨ lo ≤ field.toNat ∧ field.toNat ≤ hi)
    (hreg : lo ≤ register.toNat ∧ register.toNat ≤ hi) :
    lo ≤ (deltaUpdate field register).toNat ∧ (deltaUpdate field register).toNat ≤ hi := by
  unfold deltaUpdate
  split_ifs with h0
  · exact hreg
  · exact hf.resolve_left h0

theorem timingLegal_of_setTiming {r b m : Half} {s t : State} (hok : timingOk r b m = true) (hs : TimingLegal s)
    (hr : t.refreshHz = deltaUpdate r s.refreshHz) (hb : t.breakUs = deltaUpdate b s.breakUs)
    (hm : t.mabUs = deltaUpdate m s.mabUs) : TimingLegal t := by
  obtain ⟨okr, okb, okm⟩ := (timingOk_iff r b m).1 hok
  obtain ⟨legalr, legalb, legalm⟩ := hs
  rw [TimingLegal, hr, hb, hm]
  exact ⟨deltaUpdate_inRange okr legalr, deltaUpdate_inRange okb legalb, deltaUpdate_inRange okm legalm⟩

theorem timingLegal_congr {s t : State} (hs : TimingLegal s) (hr : t.refreshHz = s.refreshHz)
    (hb : t.breakUs = s.breakUs) (hm : t.mabUs = s.mabUs) : TimingLegal t := by
  rw [TimingLegal, hr, hb, hm]
  exact hs

theorem commandPort_timingLegal {s u : State} (hs : TimingLegal s) (hr : s.resetNow = false)
    (h : commandPort s.portInput.rx s.beginTick = .next u) : TimingLegal u := by
  rcases commandPort_effect hr h with hkeep | ⟨i, b, v, -, heff, rfl⟩
  · exact timingLegal_congr hs (congrArg State.refreshHz hkeep :) (congrArg State.breakUs hkeep :)
      (congrArg State.mabUs hkeep :)
  · cases heff with
    | setTiming hok => exact timingLegal_of_setTiming hok hs (by simp) (by simp) (by simp)
    | _ => exact timingLegal_congr hs (by simp) (by simp) (by simp)

/-- Settles O51: reset loads the defaults, SET_TIMING loads only fields in range, and nothing else writes the
registers. -/
theorem timingRegistersStayLegal : Obligations.TimingRegistersStayLegal := by
  refine ⟨resetWith_timingLegal, fun s t hs h => ?_⟩
  rcases step_cases h with ⟨-, rfl⟩ | ⟨hr, u, hu, rfl⟩
  · exact resetWith_timingLegal s.params
  · exact timingLegal_congr (commandPort_timingLegal hs hr hu) (finishTick_refreshHz u) (finishTick_breakUs u)
      (finishTick_mabUs u)

/-! ## What a data push leaves alone (42_sequencer.md R159, R160) -/

/-- What a data push can write: the cursor and the FIFO, and what a completed frame writes. -/
def pushWrites (s t : State) : State :=
  { s with
    frameCount := t.frameCount, fpsX100 := t.fpsX100, errorCount := t.errorCount, estate := t.estate,
    cursor := t.cursor, lastComplete := t.lastComplete, winStart := t.winStart, winFrames := t.winFrames,
    underrun := t.underrun, fifo := t.fifo }

theorem frameComplete_eq_pushWrites (s : State) : frameComplete s = pushWrites s (frameComplete s) := by
  simp only [frameComplete, frameEnd, fpsSample]
  split_ifs <;> rfl

theorem dataPush_eq_pushWrites (entry : Bool) (s : State) : dataPush entry s = pushWrites s (dataPush entry s) := by
  simp only [dataPush]
  split_ifs
  · rw [frameComplete_eq_pushWrites]; rfl
  · rfl

theorem dataPush_frame (entry : Bool) (s : State) : (dataPush entry s).frame = s.frame := by
  rw [dataPush_eq_pushWrites]; rfl
theorem dataPush_latBreak (entry : Bool) (s : State) : (dataPush entry s).latBreak = s.latBreak := by
  rw [dataPush_eq_pushWrites]; rfl
theorem dataPush_latMab (entry : Bool) (s : State) : (dataPush entry s).latMab = s.latMab := by
  rw [dataPush_eq_pushWrites]; rfl
theorem dataPush_lastStart (entry : Bool) (s : State) : (dataPush entry s).lastStart = s.lastStart := by
  rw [dataPush_eq_pushWrites]; rfl

/-! ## The recorded ticks (R36, R38) -/

/-- LAST_START is written with this tick's number, or not at all. -/
theorem sequencerStep_lastStart (s : State) :
    (sequencerStep s).lastStart = s.lastStart ∨ (sequencerStep s).lastStart = s.nowUs := by
  cases he : s.estate with
  | idle =>
    simp only [sequencerStep, he]
    split_ifs
    · exact .inr rfl
    · exact .inl rfl
  | brk => simp only [sequencerStep, he]; split_ifs <;> exact .inl rfl
  | mab =>
    simp only [sequencerStep, he]
    split_ifs
    · exact .inl rfl
    · exact .inl (dataPush_lastStart _ _)
  | data => simp only [sequencerStep, he]; exact .inl (dataPush_lastStart _ _)

/-- A rate sample starts the next window at this tick, or the window goes on (R161). -/
theorem frameComplete_winStart (s : State) :
    (frameComplete s).winStart = s.winStart ∨ (frameComplete s).winStart = s.nowUs := by
  simp only [frameComplete, frameEnd, fpsSample]
  split_ifs
  · exact .inr rfl
  · exact .inl rfl

/-- WIN_START is written by phase 2 with this tick's number, or not at all. -/
theorem sequencerStep_winStart (s : State) :
    (sequencerStep s).winStart = s.winStart ∨ (sequencerStep s).winStart = s.nowUs := by
  rcases sequencerStep_cases s with ⟨-, x, hx, -, hcount, hnow⟩ | ⟨-, hcount⟩
  · simp only [State.counters, Prod.mk.injEq] at hcount
    obtain ⟨-, -, -, -, hwin, -⟩ := hcount
    rw [hx, ← hwin, ← hnow]
    exact frameComplete_winStart x
  · simp only [State.counters, Prod.mk.injEq] at hcount
    obtain ⟨-, -, -, -, hwin, -⟩ := hcount
    exact .inl hwin

/-- WIN_START is written by phase 1 with this tick's number, by ENABLE (R133), or not at all. -/
theorem commandPort_winStart {s u : State} (hr : s.resetNow = false)
    (h : commandPort s.portInput.rx s.beginTick = .next u) : u.winStart = s.winStart ∨ u.winStart = s.nowUs := by
  rcases commandPort_effect hr h with hkeep | ⟨i, b, v, -, heff, rfl⟩
  · exact .inl (congrArg State.winStart hkeep :)
  · cases heff with
    | enable p => exact .inr (by simp)
    | _ => exact .inl (by simp)

@[simp] theorem finishTick_lastStart (s : State) : s.finishTick.lastStart = (sequencerStep s).lastStart := by
  rw [State.finishTick, serializerStep_eq_serWrites]; rfl

/-- Phases 2 and 3 keep the recorded ticks behind the clock, which counts on. -/
theorem finishTick_clockLegal {s : State} (hs : ClockLegal s) (hlast : s.nowUs.toNat + 1 < 2 ^ 64) :
    ClockLegal s.finishTick := by
  obtain ⟨hstart, hwin⟩ := hs
  rw [ClockLegal, finishTick_nowUs, nextTick_toNat hlast, finishTick_lastStart, finishTick_winStart]
  constructor
  · rcases sequencerStep_lastStart s with h | h <;> rw [h] <;> omega
  · rcases sequencerStep_winStart s with h | h <;> rw [h] <;> omega

/-- Settles O53: whatever phase writes LAST_START or WIN_START writes this tick's number, and then the clock counts on. -/
theorem recordedTicksNotAhead : Obligations.RecordedTicksNotAhead := by
  intro s t hs hlast h
  rcases step_cases h with ⟨-, rfl⟩ | ⟨hr, u, hu, rfl⟩
  · exact ⟨Nat.le_refl _, Nat.le_refl _⟩
  · obtain ⟨-, -, hnow, -, hstart, -⟩ := commandPort_frameView hu
    have hnow' : u.nowUs = s.nowUs := hnow
    have hstart' : u.lastStart = s.lastStart := hstart
    refine finishTick_clockLegal ⟨?_, ?_⟩ (hnow' ▸ hlast)
    · rw [hstart', hnow']; exact hs.1
    · rw [hnow']
      rcases commandPort_winStart hr hu with h | h
      · rw [h]; exact hs.2
      · rw [h]

end Sys2Proof.Machine
end

section
/-! SUPPORT. Every step keeps the invariant (10_state.md R24 to R51): one lemma for each part of the invariant and each
phase that writes what the part speaks of. -/

namespace Sys2Proof.Machine

/-! ## Phase 1: what an operation writes -/

/-- A run of bytes written within UNIV keeps it canonical and within its size. -/
theorem univ_legal_of_setRun {s t : State} {a : Nat} {values : List Byte} (hwf : Memory.wf s.univ = true)
    (hin : Memory.within Config.universeSize s.univ = true) (ht : t.univ = Memory.setRun s.univ a values)
    (hlen : a + values.length ≤ Config.universeSize) :
    Memory.wf t.univ = true ∧ Memory.within Config.universeSize t.univ = true := by
  rw [ht]
  exact ⟨setRun_wf hwf a values, setRun_within hin hlen⟩

/-- Phase 1 keeps UNIV canonical and within its size: SET_CHANNELS writes a run in range, BLACKOUT all 512 (R61). -/
theorem commandPort_univ_legal {s u : State} (hwf : Memory.wf s.univ = true)
    (hin : Memory.within Config.universeSize s.univ = true) (hr : s.resetNow = false)
    (h : commandPort s.portInput.rx s.beginTick = .next u) :
    Memory.wf u.univ = true ∧ Memory.within Config.universeSize u.univ = true := by
  rcases commandPort_effect hr h with hkeep | ⟨i, b, v, -, heff, rfl⟩
  · have huniv : u.univ = s.univ := (congrArg State.univ hkeep :)
    rw [huniv]
    exact ⟨hwf, hin⟩
  · cases heff with
    | setChannels hrange => exact univ_legal_of_setRun hwf hin (by simp) ((runInRange_iff _ _).1 hrange)
    | blackout p hm => exact univ_legal_of_setRun hwf hin (by simpa using hm) (by simp)
    | _ => simp [hwf, hin]

theorem pendingLegal_congr {s t : State} (hs : PendingLegal s) (hpend : t.pendingRst = s.pendingRst)
    (hparams : t.params = s.params) : PendingLegal t := by
  rw [PendingLegal, hpend, hparams]
  exact hs

/-- Only an accepted SYSTEM_RESET sets PENDING_RST, and only a block that has one accepts it (R51, R139). -/
theorem commandPort_pendingLegal {s u : State} (hs : PendingLegal s) (hr : s.resetNow = false)
    (h : commandPort s.portInput.rx s.beginTick = .next u) : PendingLegal u := by
  rcases commandPort_effect hr h with hkeep | ⟨i, b, v, -, heff, rfl⟩
  · exact pendingLegal_congr hs (congrArg State.pendingRst hkeep :)
      (congrArg FrameView.params (commandPort_frameView h).1)
  · cases heff with
    | systemReset hopt => exact fun _ => hopt
    | _ => exact pendingLegal_congr hs (by simp) (by simp)

/-! ## Phase 1: the receiver -/

/-- Validation and dispatch write nothing of RXBUF. -/
theorem validateAndDispatch_rxbuf {b : Byte} {s t : State} (h : validateAndDispatch b s = .next t) :
    t.rxbuf = s.rxbuf := by
  unfold validateAndDispatch at h
  split_ifs at h
  · cases h; rfl
  · rw [exec_eq_opWrites h]; rfl

/-- Storing a byte at an index of RXBUF keeps RXBUF canonical and within its size. -/
theorem receiverStep_rxbuf_legal {b : Byte} {s t : State} (hwf : Memory.wf s.rxbuf = true)
    (hin : Memory.within Config.rxbufSize s.rxbuf = true) (h : receiverStep b s = .next t) :
    Memory.wf t.rxbuf = true ∧ Memory.within Config.rxbufSize t.rxbuf = true := by
  have stored : ∀ {k : Nat}, k < Config.rxbufSize → t.rxbuf = Memory.set s.rxbuf k b →
      Memory.wf t.rxbuf = true ∧ Memory.within Config.rxbufSize t.rxbuf = true := by
    intro k hk ht
    rw [ht]
    exact ⟨set_wf hwf k b, set_within hin hk b⟩
  cases hst : s.rstate with
  | idle =>
    simp only [receiverStep, hst] at h
    split_ifs at h
    · cases h; exact stored (k := 0) (by decide) rfl
    · cases h; exact ⟨hwf, hin⟩
  | cmd => simp only [receiverStep, hst] at h; cases h; exact stored (k := 1) (by decide) rfl
  | lenLo => simp only [receiverStep, hst] at h; cases h; exact stored (k := 2) (by decide) rfl
  | lenHi =>
    simp only [receiverStep, hst, receiveLenHi] at h
    split_ifs at h <;> (cases h; exact stored (k := 3) (by decide) rfl)
  | data =>
    simp only [receiverStep, hst, receiveData] at h
    split_ifs at h with hpos
    · cases h; exact stored hpos rfl
    · cases h; exact stored hpos rfl
  | checksum =>
    simp only [receiverStep, hst] at h
    split_ifs at h with hpos
    obtain ⟨u, hu, rfl⟩ := andThen_eq_next h
    refine stored hpos ?_
    rw [toReceiverIdle_rxbuf, validateAndDispatch_rxbuf hu, storeRx_rxbuf]

theorem receiverLegal_of_idle {s : State} (hst : s.rstate = .idle) (hpos : s.rxpos.toNat = 0) : ReceiverLegal s := by
  simp [ReceiverLegal, hst, hpos]

/-- The magic byte is stored at index 0 and stays there while the packet is received. -/
theorem get_set_magic {m : Memory} (hwf : Memory.wf m = true) {k : Nat} (b : Byte) (hk : 0 < k)
    (hmagic : Memory.get m 0 = Config.magicCmd) : Memory.get (Memory.set m k b) 0 = Config.magicCmd := by
  rw [get_set hwf, if_neg (by omega), hmagic]

/-- The `R_LEN_HI` arm: RXLEN is the length field just completed, and it is within the bound wherever the packet goes
on (R120, R122, R127). -/
theorem receiveLenHi_receiverLegal {b : Byte} {s : State} (hwf : Memory.wf s.rxbuf = true)
    (hmagic : Memory.get s.rxbuf 0 = Config.magicCmd) : ReceiverLegal (receiveLenHi b s) := by
  have hmagic' := get_set_magic hwf b (show 0 < 3 by decide) hmagic
  have hlen : le16 (Memory.get s.rxbuf 2) b =
      le16 (Memory.get (Memory.set s.rxbuf 3 b) 2) (Memory.get (Memory.set s.rxbuf 3 b) 3) := by
    simp [get_set hwf]
  simp only [receiveLenHi]
  split_ifs with hbound hzero
  · exact receiverLegal_of_idle rfl rfl
  · simp [ReceiverLegal, hmagic', ← hlen, hzero]
  · have hpos : 0 < (le16 (Memory.get s.rxbuf 2) b).toNat := by
      rw [Nat.pos_iff_ne_zero]
      exact fun h0 => hzero (BitVec.eq_of_toNat_eq h0)
    simp [ReceiverLegal, hmagic', ← hlen, hpos, Nat.le_of_not_lt hbound]

/-- The `R_DATA` arm: RXCNT counts the payload bytes up to RXLEN (R120). -/
theorem receiveData_receiverLegal {b : Byte} {s : State} (hwf : Memory.wf s.rxbuf = true) (hs : ReceiverLegal s)
    (hst : s.rstate = .data) : ReceiverLegal (receiveData b s) := by
  obtain ⟨-, -, -, -, hdata, -, hmagic, hlen⟩ := hs
  obtain ⟨hpos, hcnt, hmax⟩ := hdata hst
  have hmax' : s.rxlen.toNat ≤ 1024 := hmax
  have hcnt' : (s.rxcnt + 1).toNat = s.rxcnt.toNat + 1 := by rw [BitVec.toNat_add]; simp; omega
  have hpos' : (s.rxpos + 1).toNat = s.rxpos.toNat + 1 := by rw [BitVec.toNat_add]; simp; omega
  have hmagic' := get_set_magic hwf b (show 0 < s.rxpos.toNat by omega) (hmagic (by simp [hst]))
  have hlen' : s.rxlen = le16 (Memory.get (Memory.set s.rxbuf s.rxpos.toNat b) 2)
      (Memory.get (Memory.set s.rxbuf s.rxpos.toNat b) 3) := by
    rw [get_set hwf, get_set hwf, if_neg (by omega), if_neg (by omega)]
    exact hlen (.inl hst)
  simp only [receiveData]
  split_ifs with hlast
  · simp only [hcnt', storeRx_rxlen] at hlast
    refine ⟨nofun, nofun, nofun, nofun, nofun, fun _ => ⟨?_, hmax⟩, fun _ => hmagic', fun _ => hlen'⟩
    show (s.rxpos + 1).toNat = 4 + s.rxlen.toNat
    omega
  · simp only [hcnt', storeRx_rxlen] at hlast
    simp only [ReceiverLegal, storeRx_rstate, storeRx_rxpos, storeRx_rxlen, storeRx_rxbuf, hst, hpos', hcnt']
    refine ⟨nofun, nofun, nofun, nofun, fun _ => ⟨by omega, by omega, hmax⟩, nofun, fun _ => hmagic', fun _ => hlen'⟩

/-- What RXPOS, RXLEN and RXCNT count stays right, byte by byte (R81, R120). -/
theorem receiverStep_receiverLegal {b : Byte} {s t : State} (hwf : Memory.wf s.rxbuf = true) (hs : ReceiverLegal s)
    (h : receiverStep b s = .next t) : ReceiverLegal t := by
  have hmagic : s.rstate ≠ .idle → Memory.get s.rxbuf 0 = Config.magicCmd := by
    obtain ⟨-, -, -, -, -, -, hmagic, -⟩ := hs
    exact hmagic
  cases hst : s.rstate with
  | idle =>
    simp only [receiverStep, hst] at h
    split_ifs at h with hb
    · cases h
      simp [ReceiverLegal, get_set hwf, hb]
    · cases h; exact hs
  | cmd =>
    simp only [receiverStep, hst] at h
    cases h
    simp [ReceiverLegal, get_set_magic hwf b (show 0 < 1 by decide) (hmagic (by simp [hst]))]
  | lenLo =>
    simp only [receiverStep, hst] at h
    cases h
    simp [ReceiverLegal, get_set_magic hwf b (show 0 < 2 by decide) (hmagic (by simp [hst]))]
  | lenHi =>
    simp only [receiverStep, hst] at h
    cases h
    exact receiveLenHi_receiverLegal hwf (hmagic (by simp [hst]))
  | data =>
    simp only [receiverStep, hst] at h
    split_ifs at h
    cases h
    exact receiveData_receiverLegal hwf hs hst
  | checksum =>
    simp only [receiverStep, hst] at h
    split_ifs at h
    obtain ⟨u, -, rfl⟩ := andThen_eq_next h
    exact receiverLegal_of_idle rfl rfl

/-- Phase 1 keeps the receiver's part of the invariant. -/
theorem commandPort_receiver_legal {rx : Option Byte} {s t : State} (hwf : Memory.wf s.rxbuf = true)
    (hin : Memory.within Config.rxbufSize s.rxbuf = true) (hs : ReceiverLegal s) (h : commandPort rx s = .next t) :
    (Memory.wf t.rxbuf = true ∧ Memory.within Config.rxbufSize t.rxbuf = true) ∧ ReceiverLegal t := by
  cases rx with
  | none => cases h; exact ⟨⟨hwf, hin⟩, hs⟩
  | some b => exact ⟨receiverStep_rxbuf_legal hwf hin h, receiverStep_receiverLegal hwf hs h⟩

/-! ## Phase 1: the whole invariant -/

/-- The sequencer's and the serializer's part is a matter of the frame in flight, and so no operation's to break. -/
theorem engineLegal_congr {s t : State} (hs : EngineLegal s) (h : t.frameView = s.frameView) : EngineLegal t := by
  simp only [State.frameView, FrameView.mk.injEq] at h
  obtain ⟨hparams, -, hestate, hcnt, hbreak, hmab, hcursor, hunder, hfifo, hactive, -, htick⟩ := h
  simpa only [EngineLegal, drained, hparams, hestate, hcnt, hbreak, hmab, hcursor, hunder, hfifo, hactive, htick]
    using hs

theorem commandPort_inv {s u : State} (hs : s.Inv) (hr : s.resetNow = false)
    (h : commandPort s.portInput.rx s.beginTick = .next u) : u.Inv := by
  obtain ⟨htiming, ⟨⟨huwf, huin⟩, hframe, ⟨hbwf, hbin⟩, hfifo⟩, hengine, hrecv, hpend⟩ := hs
  obtain ⟨hview, -⟩ := commandPort_frameView h
  obtain ⟨hrxbuf, hrecv'⟩ := commandPort_receiver_legal (s := s.beginTick) hbwf hbin hrecv h
  have hframe' : u.frame = s.frame := congrArg FrameView.frame hview
  have hfifo' : u.fifo = s.fifo := congrArg FrameView.fifo hview
  have hparams' : u.params = s.params := congrArg FrameView.params hview
  refine ⟨commandPort_timingLegal htiming hr h, ⟨commandPort_univ_legal huwf huin hr h, ?_, hrxbuf, ?_⟩,
    engineLegal_congr hengine hview, hrecv', commandPort_pendingLegal hpend hr h⟩
  · rw [hframe']; exact hframe
  · rw [hfifo', hparams']; exact hfifo

end Sys2Proof.Machine
end

section
/-! SUPPORT. Every step keeps the invariant: phases 2 and 3, and the step. -/

namespace Sys2Proof.Machine

/-! ## Phase 2 -/

/-- Between phase 2 and phase 3 a frame with data still to push has a byte in the FIFO: with the serializer's load it is
what keeps the line from running dry (R163). -/
def DataQueued (s : State) : Prop := s.estate = .data → s.fifo ≠ []

theorem frameComplete_underrun (s : State) : (frameComplete s).underrun = false :=
  congrArg FrameView.underrun (frameComplete_frameView s)

/-- UNDERRUN stays clear over a data push that finds the line fed, or that is the entry tick's (R159, R163). -/
theorem dataPush_underrun {entry : Bool} {s : State} (h : underrunAfter entry s = false) :
    (dataPush entry s).underrun = false := by
  simp only [dataPush]
  split_ifs
  · exact frameComplete_underrun _
  · exact h

/-- A data push ends the frame, or leaves the cursor within it and the FIFO full, and so not empty (R159). -/
theorem dataPush_engineLegal {entry : Bool} {s : State} (hest : s.estate = .data)
    (hcur : s.cursor.toNat < Config.frameLen) (hunder : underrunAfter entry s = false)
    (hlat : (Config.breakMin ≤ s.latBreak.toNat ∧ s.latBreak.toNat ≤ Config.breakMax) ∧
      (Config.mabMin ≤ s.latMab.toNat ∧ s.latMab.toNat ≤ Config.mabMax))
    (hshift : s.shActive = true → s.shTick < s.params.slotUs) :
    EngineLegal (dataPush entry s) ∧ DataQueued (dataPush entry s) := by
  have hcur' : s.cursor.toNat < 513 := hcur
  have hdepth := depth_pos s.params
  have hunder' := dataPush_underrun hunder
  have hbreak := dataPush_latBreak entry s
  have hmab := dataPush_latMab entry s
  obtain ⟨hparams, -, hcursor, hfifo, hestate, htick, -, hactive⟩ := dataPush_spec entry s (Nat.le_of_lt hcur')
  have hlen : (dataPush entry s).fifo.length =
      s.fifo.length + min (513 - s.cursor.toNat) (s.params.depth - s.fifo.length) := by
    rw [hfifo, List.length_append, slice_length]
  generalize dataPush entry s = t at *
  rw [hest] at hestate
  have hdata : t.estate = .data → t.cursor.toNat < 513 ∧ t.fifo ≠ [] := by
    intro hd
    have hne : t.cursor.toNat ≠ 513 := fun h513 => by simp [hestate, h513] at hd
    refine ⟨by omega, List.ne_nil_of_length_pos ?_⟩
    omega
  refine ⟨⟨fun _ => hbreak ▸ hmab ▸ hlat, ?_, ?_, fun hd => ⟨(hdata hd).1, ?_⟩, ?_, hunder', ?_⟩,
    fun hd => (hdata hd).2⟩
  · intro hb; rw [hestate] at hb; split_ifs at hb
  · intro hm; rw [hestate] at hm; split_ifs at hm
  · simp [drained, (hdata hd).2]
  · show t.cursor.toNat ≤ 513
    omega
  · rw [hactive, htick, hparams]; exact hshift

theorem drained_of_startOk {s : State} (h : startOk s = true) : drained s = true := by
  simp only [startOk, Bool.and_eq_true] at h
  obtain ⟨⟨-, hdry⟩, -⟩ := h
  exact hdry

/-- A frame start latches legal durations and begins BREAK on a drained line (R156, R187). -/
theorem frameStart_engineLegal {s : State} (htiming : TimingLegal s) (hdry : drained s = true)
    (hcur : s.cursor.toNat ≤ Config.frameLen) (hunder : s.underrun = false)
    (hshift : s.shActive = true → s.shTick < s.params.slotUs) : EngineLegal (frameStart s) := by
  obtain ⟨-, hbreak, hmab⟩ := htiming
  refine ⟨fun _ => ⟨hbreak, hmab⟩, fun _ => ⟨?_, Nat.le_refl _, hdry⟩, nofun, nofun, hcur, hunder, hshift⟩
  show 1 ≤ s.breakUs.toNat
  exact le_trans (by decide) hbreak.1

/-- The sequencer keeps its part of the invariant, and leaves the FIFO fed in DATA. -/
theorem sequencerStep_engineLegal {s : State} (htiming : TimingLegal s) (hs : EngineLegal s) :
    EngineLegal (sequencerStep s) ∧ DataQueued (sequencerStep s) := by
  have hs' := hs
  obtain ⟨hlat, hbrk, hmab, hdata, hcur, hunder, hshift⟩ := hs
  cases he : s.estate with
  | idle =>
    simp only [sequencerStep, he]
    split_ifs with hstart
    · exact ⟨frameStart_engineLegal htiming (drained_of_startOk hstart) hcur hunder hshift, nofun⟩
    · exact ⟨hs', fun hd => by simp [he] at hd⟩
  | brk =>
    obtain ⟨-, hle, hdry⟩ := hbrk he
    obtain ⟨hlatb, hlatm⟩ := hlat (by simp [he])
    simp only [sequencerStep, he]
    split_ifs with hcnt
    · have hpred := phaseCnt_pred hcnt
      refine ⟨⟨fun _ => ⟨hlatb, hlatm⟩, fun _ => ⟨?_, ?_, hdry⟩, nofun, nofun, hcur, hunder, hshift⟩, nofun⟩
      · show 1 ≤ (s.phaseCnt - 1).toNat
        omega
      · show (s.phaseCnt - 1).toNat ≤ s.latBreak.toNat
        omega
    · refine ⟨⟨fun _ => ⟨hlatb, hlatm⟩, nofun, fun _ => ⟨?_, Nat.le_refl _, hdry⟩, nofun, hcur, hunder, hshift⟩, nofun⟩
      show 1 ≤ s.latMab.toNat
      exact le_trans (by decide) hlatm.1
  | mab =>
    obtain ⟨-, hle, hdry⟩ := hmab he
    obtain ⟨hlatb, hlatm⟩ := hlat (by simp [he])
    simp only [sequencerStep, he]
    split_ifs with hcnt
    · have hpred := phaseCnt_pred hcnt
      refine ⟨⟨fun _ => ⟨hlatb, hlatm⟩, nofun, fun _ => ⟨?_, ?_, hdry⟩, nofun, hcur, hunder, hshift⟩, nofun⟩
      · show 1 ≤ (s.phaseCnt - 1).toNat
        omega
      · show (s.phaseCnt - 1).toNat ≤ s.latMab.toNat
        omega
    · exact dataPush_engineLegal rfl (show 0 < Config.frameLen by decide) (by simp [underrunAfter, hunder])
        ⟨hlatb, hlatm⟩ hshift
  | data =>
    obtain ⟨hlt, hfed⟩ := hdata he
    simp only [sequencerStep, he]
    exact dataPush_engineLegal he hlt (by simp [underrunAfter, hunder, hfed]) (hlat (by simp [he])) hshift

/-- FRAME is written by a frame start, with the snapshot of UNIV, or not at all (R157). -/
theorem sequencerStep_frame (s : State) :
    (sequencerStep s).frame = s.frame ∨ (sequencerStep s).frame = snapshot s.univ := by
  cases he : s.estate with
  | idle =>
    simp only [sequencerStep, he]
    split_ifs
    · exact .inr rfl
    · exact .inl rfl
  | brk => simp only [sequencerStep, he]; split_ifs <;> exact .inl rfl
  | mab =>
    simp only [sequencerStep, he]
    split_ifs
    · exact .inl rfl
    · exact .inl (dataPush_frame _ _)
  | data => simp only [sequencerStep, he]; exact .inl (dataPush_frame _ _)

/-- The snapshot is a legal FRAME: canonical, 513 bytes, the start code first (R31, R157). -/
theorem snapshot_legal {univ : Memory} (hwf : Memory.wf univ = true) :
    Memory.wf (snapshot univ) = true ∧ Memory.within Config.frameLen (snapshot univ) = true ∧
      Memory.get (snapshot univ) 0 = Config.startCode :=
  ⟨snapshot_wf hwf, snapshot_within univ, by rw [get_snapshot hwf 0 (by decide), if_pos rfl]⟩

/-- A data push does not fill the FIFO above its depth (R82). -/
theorem dataPush_fifo_le {entry : Bool} {s : State} (hcur : s.cursor.toNat ≤ Config.frameLen)
    (hs : s.fifo.length ≤ s.params.depth) : (dataPush entry s).fifo.length ≤ s.params.depth := by
  obtain ⟨-, -, -, hfifo, -⟩ := dataPush_spec entry s hcur
  rw [hfifo, List.length_append, slice_length]
  omega

theorem sequencerStep_fifo_le {s : State} (hcur : s.cursor.toNat ≤ Config.frameLen)
    (hs : s.fifo.length ≤ s.params.depth) : (sequencerStep s).fifo.length ≤ s.params.depth := by
  cases he : s.estate with
  | idle => simp only [sequencerStep, he]; split_ifs <;> exact hs
  | brk => simp only [sequencerStep, he]; split_ifs <;> exact hs
  | mab =>
    simp only [sequencerStep, he]
    split_ifs
    · exact hs
    · exact dataPush_fifo_le (s := { s with estate := .data, cursor := 0 }) (Nat.zero_le _) hs
  | data => simp only [sequencerStep, he]; exact dataPush_fifo_le hcur hs

/-! ## Phase 3 -/

/-- In BREAK and MAB the serializer only drives the line; else it shifts a slot, loads one, or finds the line dry. -/
theorem serializerStep_cases (s : State) :
    (∃ l, serializerStep s = { s with line := l }) ∧
        (s.estate = .brk ∨ s.estate = .mab ∨ s.shActive = false ∧ s.fifo = []) ∨
      (∃ l, serializerStep s =
          { s with line := l, shTick := s.shTick + 1, shActive := s.shTick + 1 ≠ s.params.slotUs }) ∧
        (s.estate ≠ .brk ∧ s.estate ≠ .mab) ∧ s.shActive = true ∨
      (∃ b rest l, serializerStep s =
          { s with fifo := rest, shByte := b, line := l, shTick := 1, shActive := 1 ≠ s.params.slotUs } ∧
        s.fifo = b :: rest) ∧ (s.estate ≠ .brk ∧ s.estate ≠ .mab) := by
  by_cases hb : s.estate = .brk
  · exact .inl ⟨⟨false, by simp only [serializerStep, hb]⟩, .inl hb⟩
  by_cases hm : s.estate = .mab
  · exact .inl ⟨⟨true, by simp only [serializerStep, hm]⟩, .inr (.inl hm)⟩
  cases ha : s.shActive with
  | true => exact .inr (.inl ⟨⟨_, serializerStep_active ⟨hb, hm⟩ ha⟩, ⟨hb, hm⟩, rfl⟩)
  | false =>
    cases hf : s.fifo with
    | nil =>
      refine .inl ⟨⟨true, ?_⟩, .inr (.inr ⟨rfl, rfl⟩)⟩
      cases he : s.estate <;> simp_all [serializerStep, loadSlot, shiftSlot]
    | cons b rest => exact .inr (.inr ⟨⟨b, rest, _, serializerStep_load ⟨hb, hm⟩ ha hf, rfl⟩, hb, hm⟩)

/-- The serializer keeps the shift register within its slot (R41), and a line that phase 2 left fed does not run dry. -/
theorem serializerStep_engineLegal {s : State} (hs : EngineLegal s) (hq : DataQueued s) :
    EngineLegal (serializerStep s) := by
  have hS := slotUs_ge s.params
  have hs' := hs
  obtain ⟨hlat, -, -, hdata, hcur, hunder, hshift⟩ := hs
  rcases serializerStep_cases s with ⟨⟨l, h⟩, -⟩ | ⟨⟨l, h⟩, ⟨hnb, hnm⟩, ha⟩ | ⟨⟨b, rest, l, h, -⟩, hnb, hnm⟩
  · rw [h]; exact hs'
  · have hlt := hshift ha
    rw [h]
    refine ⟨hlat, fun hb => absurd hb hnb, fun hm => absurd hm hnm, fun hd => ⟨(hdata hd).1, ?_⟩, hcur, hunder, ?_⟩
    · simp [drained, hq hd]
    · simp only [decide_eq_true_eq]; omega
  · rw [h]
    refine ⟨hlat, fun hb => absurd hb hnb, fun hm => absurd hm hnm, fun hd => ⟨(hdata hd).1, ?_⟩, hcur, hunder, ?_⟩
    · simp [drained, show ¬1 = s.params.slotUs by omega]
    · intro _; show 1 < s.params.slotUs; omega

/-- The serializer only takes bytes from the FIFO. -/
theorem serializerStep_fifo_le (s : State) : (serializerStep s).fifo.length ≤ s.fifo.length := by
  rcases serializerStep_cases s with ⟨⟨l, h⟩, -⟩ | ⟨⟨l, h⟩, -⟩ | ⟨⟨b, rest, l, h, hf⟩, -⟩
  · rw [h]
  · rw [h]
  · rw [h, hf]; exact Nat.le_succ _

/-! ## The step -/

@[simp] theorem finishTick_frame (s : State) : s.finishTick.frame = (sequencerStep s).frame := by
  rw [State.finishTick, serializerStep_eq_serWrites]; rfl

@[simp] theorem finishTick_fifo (s : State) : s.finishTick.fifo = (serializerStep (sequencerStep s)).fifo := rfl

theorem finishTick_spacesLegal {s : State} (hs : SpacesLegal s) (hcur : s.cursor.toNat ≤ Config.frameLen) :
    SpacesLegal s.finishTick := by
  obtain ⟨huniv, hframe, hrxbuf, hfifo⟩ := hs
  rw [SpacesLegal, finishTick_univ, finishTick_frame, finishTick_rxbuf, finishTick_fifo, finishTick_params]
  refine ⟨huniv, ?_, hrxbuf, le_trans (serializerStep_fifo_le _) (sequencerStep_fifo_le hcur hfifo)⟩
  rcases sequencerStep_frame s with h | h
  · rw [h]; exact hframe
  · rw [h]; exact snapshot_legal huniv.1

theorem finishTick_engineLegal {s : State} (htiming : TimingLegal s) (hs : EngineLegal s) :
    EngineLegal s.finishTick := by
  obtain ⟨hseq, hqueued⟩ := sequencerStep_engineLegal htiming hs
  exact engineLegal_congr (serializerStep_engineLegal hseq hqueued) rfl

theorem finishTick_receiverLegal {s : State} (hs : ReceiverLegal s) : ReceiverLegal s.finishTick := by
  simpa only [ReceiverLegal, finishTick_rstate, finishTick_rxpos, finishTick_rxlen, finishTick_rxcnt, finishTick_rxbuf]
    using hs

/-- Phases 2 and 3 keep the invariant. -/
theorem finishTick_inv {s : State} (hs : s.Inv) : s.finishTick.Inv := by
  obtain ⟨htiming, hspaces, hengine, hrecv, hpend⟩ := hs
  have hcur : s.cursor.toNat ≤ Config.frameLen := by
    obtain ⟨-, -, -, -, hcur, -⟩ := hengine
    exact hcur
  exact ⟨timingLegal_congr htiming (finishTick_refreshHz s) (finishTick_breakUs s) (finishTick_mabUs s),
    finishTick_spacesLegal hspaces hcur, finishTick_engineLegal htiming hengine, finishTick_receiverLegal hrecv,
    pendingLegal_congr hpend (finishTick_pendingRst s) (finishTick_params s)⟩

/-- Settles O48: a reset tick leaves the reset state, and any other tick is phase 1, then phases 2 and 3, each of which
keeps the invariant. -/
theorem stepKeepsInvariant : Obligations.StepKeepsInvariant := by
  intro s t hs h
  rcases step_cases h with ⟨-, rfl⟩ | ⟨hr, u, hu, rfl⟩
  · exact resetWith_inv s.params
  · exact finishTick_inv (commandPort_inv hs hr hu)

end Sys2Proof.Machine
end

section
/-! SUPPORT. Running an operation again at once (20_memory.md R72, 70_reset_and_hazards.md R224). Only UNIV needs an
argument: a run of bytes that is already in place is written without effect, because a space has one canonical form. -/

namespace Sys2Proof.Machine

/-! ## Writing what is already there -/

theorem set_get_self_of_risingFrom {m : Memory} {lo : Nat} (hm : Memory.risingFrom lo m = true)
    (hnz : ∀ c ∈ m, c.2 ≠ 0x00#8) (a : Nat) : Memory.set m a (Memory.get m a) = m := by
  induction m generalizing lo with
  | nil => rfl
  | cons c m ih =>
    obtain ⟨k, w⟩ := c
    obtain ⟨hw, hnz⟩ := List.forall_mem_cons.1 hnz
    simp only [Memory.risingFrom, Bool.and_eq_true, decide_eq_true_eq] at hm
    obtain ⟨-, hrise⟩ := hm
    rcases Nat.lt_trichotomy a k with h | rfl | h
    · have hzero : Memory.get m a = 0x00#8 := get_eq_zero_of_risingFrom hrise (by omega)
      simp [Memory.set, Memory.get, h, h.ne, hzero]
    · simp [Memory.set, Memory.get, hw]
    · simp [Memory.set, Memory.get, h.ne', h.not_gt, ih hrise hnz]

/-- Writing the byte that an index already holds leaves the space (log 13). -/
theorem set_get_self {m : Memory} (hm : Memory.wf m = true) (a : Nat) : Memory.set m a (Memory.get m a) = m := by
  simp only [Memory.wf, Bool.and_eq_true, List.all_eq_true, decide_eq_true_eq] at hm
  obtain ⟨hrise, hnz⟩ := hm
  exact set_get_self_of_risingFrom hrise hnz a

/-- Writing a run of bytes that is already in place leaves the space. -/
theorem setRun_of_slice_eq {m : Memory} (hm : Memory.wf m = true) {a : Nat} {values : List Byte}
    (h : Memory.slice m a values.length = values) : Memory.setRun m a values = m := by
  induction values generalizing a with
  | nil => rfl
  | cons v values ih =>
    rw [List.length_cons, slice_succ, List.cons.injEq] at h
    obtain ⟨hv, hvalues⟩ := h
    rw [Memory.setRun, ← hv, set_get_self hm, ih hvalues]

/-- R68, R72: a run of writes done twice is the run done once. -/
theorem setRun_setRun {m : Memory} (hm : Memory.wf m = true) (a : Nat) (values : List Byte) :
    Memory.setRun (Memory.setRun m a values) a values = Memory.setRun m a values :=
  setRun_of_slice_eq (setRun_wf hm a values) (slice_setRun hm a values)

theorem deltaUpdate_deltaUpdate (field register : Half) :
    deltaUpdate field (deltaUpdate field register) = deltaUpdate field register := by
  unfold deltaUpdate
  split_ifs <;> rfl

/-! ## Running an operation again -/

/-- BLACKOUT as a run of writes of a value with a name, so that no proof computes the 512 writes. -/
theorem exec_blackout {s : State} {m : Memory} (p : List Byte)
    (h : Memory.setRun s.univ 0 (List.replicate Config.universeSize 0x00#8) = m) :
    exec (.blackout p) s = .next ({ s with univ := m }.respond .ok []) := by
  subst h; rfl

/-- An operation answers one state, so a fixed state it is known to answer is the one it leaves. -/
theorem exec_again {i : Instr} {s t u : State} (h : exec i s = .next t) (hu : exec i s = .next u)
    (hagain : exec i u = .next u) : exec i t = .next t := by
  rw [hu, Host.Outcome.next.injEq] at h
  exact h ▸ hagain

theorem exec_setChannels_again {op : ChannelsOperand} {s t : State} (hwf : Memory.wf s.univ = true)
    (h : exec (.setChannels op) s = .next t) : exec (.setChannels op) t = .next t := by
  cases op with
  | short p => cases h; rfl
  | run start values =>
    by_cases hrange : runInRange start values = true
    · refine exec_again h (exec_setChannels_inRange s hrange) ?_
      rw [exec_setChannels_inRange _ hrange, respond_univ, setRun_setRun hwf]
      rfl
    · exact exec_again h (exec_setChannels_outOfRange s hrange) (exec_setChannels_outOfRange _ hrange)

theorem exec_blackout_again {p : List Byte} {s t : State} (hwf : Memory.wf s.univ = true)
    (h : exec (.blackout p) s = .next t) : exec (.blackout p) t = .next t := by
  have hzeros := setRun_setRun hwf 0 (List.replicate Config.universeSize 0x00#8)
  generalize hm : Memory.setRun s.univ 0 (List.replicate Config.universeSize 0x00#8) = m at hzeros
  exact exec_again h (exec_blackout p hm) (exec_blackout p hzeros)

theorem exec_setTiming_again {op : TimingOperand} {s t : State} (h : exec (.setTiming op) s = .next t) :
    exec (.setTiming op) t = .next t := by
  cases op with
  | badLength p => cases h; rfl
  | fields r b m =>
    by_cases hok : timingOk r b m = true
    · refine exec_again h (exec_setTiming_legal s hok) ?_
      simp only [exec_setTiming_legal _ hok, respond_refreshHz, respond_breakUs, respond_mabUs,
        deltaUpdate_deltaUpdate]
      rfl
    · exact exec_again h (exec_setTiming_illegal s hok) (exec_setTiming_illegal _ hok)

/-- SYSTEM_RESET tests only the parameters, which it does not write: the reset itself comes a tick later (R139, R216). -/
theorem exec_systemReset_again {op : GuardOperand} {s t : State} (h : exec (.systemReset op) s = .next t) :
    exec (.systemReset op) t = .next t := by
  cases hp : s.params.hasSystemReset with
  | false => exact exec_again h (exec_systemReset_absent op hp) (exec_systemReset_absent op hp)
  | true =>
    cases op with
    | badLength p => exact exec_again h (exec_systemReset_badLength p hp) (exec_systemReset_badLength p hp)
    | guard m =>
      by_cases hm : m = s.params.resetMagic
      · subst hm
        exact exec_again h (exec_systemReset_guard hp)
          (exec_systemReset_guard (s := { s.respond .ok [] with pendingRst := true }) hp)
      · exact exec_again h (exec_systemReset_wrongGuard hp hm) (exec_systemReset_wrongGuard hp hm)

/-- Settles O21: operation by operation, the second run finds in place what it writes (a run of channels, the delta updates,
ENABLED and the counters), and no operand test and no response depends on what its own operation writes. -/
theorem repeatedOperationChangesNothing : Obligations.RepeatedOperationChangesNothing := by
  intro i s t hs h
  obtain ⟨-, ⟨⟨huniv, -⟩, -⟩, -⟩ := hs
  cases i with
  | setChannels op => exact exec_setChannels_again huniv h
  | blackout p => exact exec_blackout_again huniv h
  | setTiming op => exact exec_setTiming_again h
  | systemReset op => exact exec_systemReset_again h
  | getStatus p => cases h; rfl
  | enable p => cases h; rfl
  | disable p => cases h; rfl
  | getTiming p => cases h; rfl
  | reserved c p => cases h; rfl

end Sys2Proof.Machine
end

section
/-! SUPPORT. The statements of 30_encoding.md: the decoder and the encoder are inverse, what decodes is what the receiver
dispatches, and every response is well formed. -/

namespace Sys2Proof

/-! ## Decoding a framed packet (R86, R88, R89) -/

/-- Whatever payload the length field can declare, the decoder takes the packet apart as `framed` put it together. -/
theorem decode_framed {code : Byte} {p : List Byte} (hp : p.length ≤ Config.rxMaxPayload) (rest : List Byte) :
    decode (framed Config.magicCmd code p ++ rest) = .ok (decodeOp code p, rest) := by
  have hlen : (BitVec.ofNat 16 p.length).toNat = p.length := by
    have hmax : Config.rxMaxPayload = 1024 := rfl
    rw [BitVec.toNat_ofNat]; omega
  simp [framed_eq, decode, hlen, Nat.not_lt.2 hp]

/-- Every operation's own code and payload select it again, and its payload is one the receiver accepts (R91 to R97). -/
theorem codeAndPayload (i : Instr) : Laws.CodeAndPayload.Statement i := by
  cases i with
  | setChannels op => exact Laws.CodeAndPayload.setChannels op
  | getStatus p => exact Laws.CodeAndPayload.getStatus p
  | enable p => exact Laws.CodeAndPayload.enable p
  | disable p => exact Laws.CodeAndPayload.disable p
  | blackout p => exact Laws.CodeAndPayload.blackout p
  | setTiming op => exact Laws.CodeAndPayload.setTiming op
  | getTiming p => exact Laws.CodeAndPayload.getTiming p
  | systemReset op => exact Laws.CodeAndPayload.systemReset op
  | reserved c p => exact Laws.CodeAndPayload.reserved c p

/-- Settles O3: a packet decodes to what its code and payload select, and those of a well-formed operation select it. -/
theorem decodeInvertsEncode : Obligations.DecodeInvertsEncode := by
  intro i rest hwf
  obtain ⟨hop, hlen⟩ := codeAndPayload i hwf
  rw [encode, decode_framed hlen, hop]

theorem decode_of_encode_eq {i : Instr} {bytes : List Byte} (hwf : i.wf = true) (h : encode i = bytes) :
    decode bytes = .ok (i, []) := by
  simpa [h] using decodeInvertsEncode i [] hwf

/-- Settles O2: each row is the packet its operation encodes to (R106), and decoding inverts encoding. -/
theorem canonicalPacketsDecode : Obligations.CanonicalPacketsDecode := by
  refine ⟨?_, ?_, ?_, ?_, ?_, ?_, ?_, ?_, ?_⟩ <;> exact decode_of_encode_eq (by decide) (by decide)

/-! ## What the dispatcher selects carries its code and its payload (R91 to R97) -/

theorem payload_channelsOperand (p : List Byte) : (channelsOperand p).payload = p := by
  unfold channelsOperand
  split
  · simp [ChannelsOperand.payload]
  · rfl

theorem payload_timingOperand (p : List Byte) : (timingOperand p).payload = p := by
  unfold timingOperand
  split
  · simp [TimingOperand.payload]
  · rfl

theorem payload_guardOperand (p : List Byte) : (guardOperand p).payload = p := by
  unfold guardOperand
  split
  · simp [GuardOperand.payload]
  · rfl

theorem channelsOperand_wf {p : List Byte} (hp : p.length ≤ Config.rxMaxPayload) : (channelsOperand p).wf = true := by
  match p with
  | [] => rfl
  | [_] => rfl
  | _ :: _ :: values =>
    rw [List.length_cons, List.length_cons] at hp
    exact decide_eq_true (by omega)

theorem timingOperand_wf {p : List Byte} (hp : p.length ≤ Config.rxMaxPayload) : (timingOperand p).wf = true := by
  by_cases h : p.length = 6
  · match p, h with
    | [_, _, _, _, _, _], _ => rfl
  · rw [Laws.CodeAndPayload.timingOperand_of_length h]
    simp [TimingOperand.wf, payloadOk, h, hp]

theorem guardOperand_wf {p : List Byte} (hp : p.length ≤ Config.rxMaxPayload) : (guardOperand p).wf = true := by
  by_cases h : p.length = 4
  · match p, h with
    | [_, _, _, _], _ => rfl
  · rw [Laws.CodeAndPayload.guardOperand_of_length h]
    simp [GuardOperand.wf, payloadOk, h, hp]

/-- R91, R99: a code selects one of the eight operations or is reserved. -/
theorem code_cases (c : Byte) :
    c = 0x01#8 ∨ c = 0x02#8 ∨ c = 0x03#8 ∨ c = 0x04#8 ∨ c = 0x05#8 ∨ c = 0x06#8 ∨ c = 0x07#8 ∨ c = 0x08#8 ∨
      reservedCode c = true := by
  simp only [reservedCode, Bool.or_eq_true, beq_iff_eq, decide_eq_true_eq]
  bv_omega

/-- Of an accepted payload, `dispatch` selects a well-formed operation with that code and that payload. -/
theorem decodeOp_spec {c : Byte} {p : List Byte} (hp : p.length ≤ Config.rxMaxPayload) :
    (decodeOp c p).wf = true ∧ (decodeOp c p).code = c ∧ (decodeOp c p).payload = p := by
  have hok : payloadOk p = true := decide_eq_true hp
  rcases code_cases c with rfl | rfl | rfl | rfl | rfl | rfl | rfl | rfl | hc
  · exact ⟨channelsOperand_wf hp, rfl, payload_channelsOperand p⟩
  · exact ⟨hok, rfl, rfl⟩
  · exact ⟨hok, rfl, rfl⟩
  · exact ⟨hok, rfl, rfl⟩
  · exact ⟨hok, rfl, rfl⟩
  · exact ⟨timingOperand_wf hp, rfl, payload_timingOperand p⟩
  · exact ⟨hok, rfl, rfl⟩
  · exact ⟨guardOperand_wf hp, rfl, payload_guardOperand p⟩
  · rw [Laws.CodeAndPayload.decodeOp_reserved hc]
    exact ⟨by rw [Instr.wf, hc, hok]; rfl, rfl, rfl⟩

/-! ## What a byte string that decodes looks like (R86, R88, R89, R90) -/

/-- The five bytes around the payload, each where the decoder looks for it. -/
theorem bytes_of_decode {bytes rest : List Byte} {i : Instr} (h : decode bytes = .ok (i, rest)) :
    ∃ (code lo hi : Byte) (p : List Byte), p.length = (le16 lo hi).toNat ∧ p.length ≤ Config.rxMaxPayload ∧
      i = decodeOp code p ∧
      bytes = Config.magicCmd :: code :: lo :: hi :: p ++
        xorsum (Config.magicCmd :: code :: lo :: hi :: p) :: rest := by
  unfold decode at h
  split at h
  · rename_i magic code lo hi tail
    split_ifs at h with hmagic hmax
    split at h
    · cases h
    · rename_i c after hdrop
      split_ifs at h with hsum
      cases h
      have hshort : (le16 lo hi).toNat ≤ tail.length := by
        have := congrArg List.length hdrop
        simp only [List.length_drop, List.length_cons] at this
        omega
      refine ⟨code, lo, hi, tail.take (le16 lo hi).toNat, ?_, ?_, rfl, ?_⟩
      · rw [List.length_take, Nat.min_eq_left hshort]
      · rw [List.length_take]; omega
      · have hsplit := List.take_append_drop (le16 lo hi).toNat tail
        rw [hdrop, hsum, not_not.1 hmagic] at hsplit
        rw [not_not.1 hmagic]
        exact congrArg (Config.magicCmd :: code :: lo :: hi :: ·) hsplit.symm
  · cases h

/-- Whatever decodes is a framed packet of an accepted payload, followed by the rest. -/
theorem eq_framed_of_decode {bytes rest : List Byte} {i : Instr} (h : decode bytes = .ok (i, rest)) :
    ∃ (code : Byte) (p : List Byte), p.length ≤ Config.rxMaxPayload ∧ i = decodeOp code p ∧
      bytes = framed Config.magicCmd code p ++ rest := by
  obtain ⟨code, lo, hi, p, hlen, hp, hi', rfl⟩ := bytes_of_decode h
  refine ⟨code, p, hp, hi', ?_⟩
  simp [framed, hlen]

/-- Settles O4: the bytes are a framed packet, and the operation it selects carries its code and its payload. -/
theorem decodedBytesAreItsPacket : Obligations.DecodedBytesAreItsPacket := by
  intro bytes rest i h
  obtain ⟨code, p, hp, rfl, hbytes⟩ := eq_framed_of_decode h
  obtain ⟨hwf, hcode, hpayload⟩ := decodeOp_spec (c := code) hp
  exact ⟨hwf, by rw [encode, hcode, hpayload, hbytes]⟩

/-! ## The words of the opcode table (R108) -/

theorem tableBody_eq (nbits w : Nat) :
    tableBody nbits w = tableByte nbits w 0 :: tableByte nbits w 1 :: tableByte nbits w 2 :: tableByte nbits w 3 ::
      (List.range (min (tableLen nbits w) Config.rxMaxPayload)).map fun k => tableByte nbits w (4 + k) := by
  rw [tableBody, List.range_add, List.map_append, List.map_map]
  rfl

theorem tableBody_length (nbits w : Nat) :
    (tableBody nbits w).length = 4 + min (tableLen nbits w) Config.rxMaxPayload := by
  rw [tableBody, List.length_map, List.length_range]

/-- A table word that decodes is a whole packet with an accepted length: nothing follows its checksum. -/
theorem decode_tableWord {nbits w : Nat} {i : Instr} (h : decodeTableWord nbits w = some i) :
    tableByte nbits w 0 = Config.magicCmd ∧ tableLen nbits w ≤ Config.rxMaxPayload ∧
      decode (tableBody nbits w ++ [tableChecksum nbits w]) = .ok (i, []) := by
  unfold decodeTableWord at h
  split at h
  · rename_i j rest hdec
    cases h
    obtain ⟨code, lo, hi, p, hlen, hp, -, hbytes⟩ := bytes_of_decode hdec
    have hsize := congrArg List.length hbytes
    rw [tableBody_eq] at hbytes
    simp only [List.cons_append, List.cons.injEq] at hbytes
    obtain ⟨hmagic, -, rfl, rfl, -⟩ := hbytes
    have htable : p.length = tableLen nbits w := hlen
    simp only [List.length_append, List.length_cons, List.length_nil, tableBody_length] at hsize
    have hrest : rest = [] := List.length_eq_zero_iff.1 (by omega)
    exact ⟨hmagic, htable ▸ hp, hrest ▸ hdec⟩
  · cases h

end Sys2Proof

namespace Sys2Proof.Machine

/-! ## The receiver dispatches what its bytes decode to (R124, R131) -/

theorem andThen_andThen (o : Result) (f g : State → State) :
    andThen (andThen o f) g = andThen o fun s => g (f s) := by
  cases o <;> rfl

/-- A stored packet is its header's four bytes and its payload (R120). -/
theorem slice_header (m : Memory) (n : Nat) :
    Memory.slice m 0 (4 + n) =
      Memory.get m 0 :: Memory.get m 1 :: Memory.get m 2 :: Memory.get m 3 :: Memory.slice m 4 n := by
  rw [← slice_append]
  rfl

/-- With a whole packet stored but for its last byte, validation passes and selects the operation the bytes decode to. -/
theorem validateAndDispatch_of_decode {s : State} {b : Byte} {i : Instr} (hwf : Memory.wf s.rxbuf = true)
    (hpos : s.rxpos.toNat = 4 + s.rxlen.toNat) (hlen : s.rxlen.toNat ≤ Config.rxMaxPayload)
    (hdec : decode (Memory.slice s.rxbuf 0 (4 + s.rxlen.toNat) ++ [b]) = .ok (i, [])) :
    validateAndDispatch b (s.storeRx b) = exec i (s.storeRx b) := by
  obtain ⟨code, lo, hi, p, -, -, rfl, hbytes⟩ := bytes_of_decode hdec
  obtain ⟨hslice, hsum⟩ := List.append_inj' hbytes rfl
  have hmax : Config.rxMaxPayload = 1024 := rfl
  have hpos' : (s.storeRx b).rxpos.toNat - 1 = 4 + s.rxlen.toNat := by
    rw [storeRx_rxpos]; bv_omega
  have hkept : Memory.slice (s.storeRx b).rxbuf 0 (4 + s.rxlen.toNat) = Config.magicCmd :: code :: lo :: hi :: p := by
    rw [storeRx_rxbuf, slice_set_above hwf b (by omega), hslice]
  have hinstr : (s.storeRx b).rxInstr = decodeOp code p := by
    rw [slice_header, List.cons.injEq, List.cons.injEq, List.cons.injEq, List.cons.injEq] at hkept
    obtain ⟨-, hcode, -, -, hpayload⟩ := hkept
    rw [State.rxInstr, State.rxPayload, hcode, storeRx_rxlen, hpayload]
  have hb : b = xorsum (Memory.slice (s.storeRx b).rxbuf 0 ((s.storeRx b).rxpos.toNat - 1)) := by
    rw [hpos', hkept]; exact List.singleton_inj.1 hsum
  have hsize : ¬Config.rxbufSize < 4 + (s.storeRx b).rxlen.toNat := by
    have : Config.rxbufSize = 1029 := rfl
    rw [storeRx_rxlen]; omega
  rw [validateAndDispatch, if_neg (not_not.2 hb), if_neg hsize, hinstr]

/-- The tick that presents the last byte of a packet runs the operation the packet decodes to, then returns the receiver to
R_IDLE (R126) and runs phases 2 and 3. -/
theorem step_of_decode {s : State} {b : Byte} {i : Instr} (hwf : Memory.wf s.rxbuf = true)
    (hr : s.resetNow = false) (hrx : s.portInput.rx = some b) (hst : s.rstate = .checksum)
    (hpos : s.rxpos.toNat = 4 + s.rxlen.toNat) (hlen : s.rxlen.toNat ≤ Config.rxMaxPayload)
    (hdec : decode (Memory.slice s.rxbuf 0 (4 + s.rxlen.toNat) ++ [b]) = .ok (i, [])) :
    step s = andThen (exec i (s.beginTick.storeRx b)) fun t => t.toReceiverIdle.finishTick := by
  have hroom : s.beginTick.rxpos.toNat < Config.rxbufSize := by
    have hmax : Config.rxMaxPayload = 1024 := rfl
    have hbuf : Config.rxbufSize = 1029 := rfl
    rw [beginTick_rxpos]; omega
  have hport : commandPort (some b) s.beginTick =
      andThen (exec i (s.beginTick.storeRx b)) State.toReceiverIdle := by
    simp only [commandPort, receiverStep, beginTick_rstate, hst, if_pos hroom,
      validateAndDispatch_of_decode (s := s.beginTick) hwf hpos hlen hdec]
  rw [step, tick, hr, hrx, hport, andThen_andThen]
  rfl

/-! ## A table word placed by the host interface (R108, log 11) -/

/-- A word that forms a packet is placed as that packet, all stored but its checksum, which the next tick presents. -/
theorem withFetchWord_of_packet {s : State} {nbits w : Nat} (hmagic : tableByte nbits w 0 = Config.magicCmd)
    (hlen : tableLen nbits w ≤ Config.rxMaxPayload) :
    s.withFetchWord nbits w = { s with
      rstate := .checksum, rxpos := BitVec.ofNat 11 (tableBody nbits w).length,
      rxbuf := Memory.setRun s.rxbuf 0 (tableBody nbits w), rxlen := BitVec.ofNat 16 (tableLen nbits w),
      rxcnt := BitVec.ofNat 11 (tableLen nbits w), pendingRst := false,
      inputs := ⟨false, some (tableChecksum nbits w)⟩ :: s.inputs.tail } := by
  rw [State.withFetchWord, State.placeTableWord, if_neg (not_not.2 hmagic), if_neg (Nat.not_lt.2 hlen)]

/-- Settles O5: the word is placed as a packet all stored but its last byte, which the next tick presents. -/
theorem fetchedWordRuns : Obligations.FetchedWordRuns := by
  intro s nbits w i hwf h
  obtain ⟨hmagic, hlen, hdec⟩ := decode_tableWord h
  have hmax : Config.rxMaxPayload = 1024 := rfl
  have hbody : (tableBody nbits w).length = 4 + tableLen nbits w := by
    rw [tableBody_length, Nat.min_eq_left hlen]
  have hrxlen : (BitVec.ofNat 16 (tableLen nbits w)).toNat = tableLen nbits w := by
    rw [BitVec.toNat_ofNat]; omega
  rw [withFetchWord_of_packet hmagic hlen]
  apply step_of_decode
  case hwf => exact setRun_wf hwf _ _
  case hr => rfl
  case hrx => rfl
  case hst => rfl
  case hpos => simp only [hrxlen, hbody, BitVec.toNat_ofNat]; omega
  case hlen => simpa only [hrxlen] using hlen
  case hdec => simpa only [hrxlen, ← hbody, slice_setRun hwf] using hdec

/-! ## Every response is well formed (R87, R98, R100) -/

/-- A response the block may emit: framed, its status not INVALID_MAGIC, its payload empty or that of GET_TIMING or
GET_STATUS, and empty for an error. -/
def ResponseLegal (packet : List Byte) : Prop :=
  ∃ st payload, packet = responsePacket st payload ∧ st ≠ .invalidMagic ∧
    (payload.length = 0 ∨ payload.length = 6 ∨ payload.length = 9) ∧ (st ≠ .ok → payload = [])

theorem responsePacket_nil_legal {st : Status} (h : st ≠ .invalidMagic) : ResponseLegal (responsePacket st []) :=
  ⟨st, [], rfl, h, .inl rfl, fun _ => rfl⟩

/-- A complete packet is answered by INVALID_CHECKSUM (R123) or by the operation it selects (R131). -/
theorem validateAndDispatch_responseLegal {b : Byte} {s t : State} {packet : List Byte}
    (h : validateAndDispatch b s = .next t) (hp : t.resp = some packet) : ResponseLegal packet := by
  unfold validateAndDispatch at h
  split_ifs at h
  · cases h
    rw [raise_resp] at hp
    exact Option.some.inj hp ▸ responsePacket_nil_legal (by decide)
  · obtain ⟨st, payload, hresp, hlegal⟩ := exec_responds h
    exact ⟨st, payload, Option.some.inj (hp.symm.trans hresp), hlegal⟩

/-- Phase 1, begun with no response out, emits a legal one or none. -/
theorem commandPort_responseLegal {rx : Option Byte} {s t : State} {packet : List Byte} (hs : s.resp = none)
    (h : commandPort rx s = .next t) (hp : t.resp = some packet) : ResponseLegal packet := by
  obtain ⟨hst, hrx⟩ := (commandPort_resp_isSome_iff hs h).1 (by rw [hp, Option.isSome_some])
  obtain ⟨b, rfl⟩ := Option.isSome_iff_exists.1 hrx
  simp only [commandPort, receiverStep, hst] at h
  split_ifs at h
  obtain ⟨u, hu, rfl⟩ := andThen_eq_next h
  exact validateAndDispatch_responseLegal hu hp

/-- Settles O31: a reset tick emits nothing, and in any other tick the response is phase 1's. -/
theorem responsesAreWellFormed : Obligations.ResponsesAreWellFormed := by
  intro s t packet h hp
  rcases step_cases h with ⟨-, rfl⟩ | ⟨-, u, hu, rfl⟩
  · simp [State.resetWith] at hp
  · rw [finishTick_resp] at hp
    exact commandPort_responseLegal rfl hu hp

end Sys2Proof.Machine
end

section
/-! SUPPORT. The statements of 40_framing.md about bytes: the checksum and the codec check. -/

namespace Sys2Proof

/-! ## The checksum (R116) -/

/-- XOR is commutative and associative, so a permutation of the bytes leaves their XOR. -/
theorem xorsum_perm {l l' : List Byte} (h : l.Perm l') : xorsum l = xorsum l' := by
  induction h with
  | nil => rfl
  | cons b _ ih => rw [xorsum_cons, xorsum_cons, ih]
  | swap a b l => simp only [xorsum_cons, ← BitVec.xor_assoc, BitVec.xor_comm b a]
  | trans _ _ ih₁ ih₂ => exact ih₁.trans ih₂

/-- Settles O6: the XOR of a list is the XOR of its parts, and XOR with oneself is 0x00. -/
theorem checksumAccumulates : Obligations.ChecksumAccumulates := by
  refine ⟨xorsum_nil, fun l b => ?_, fun _ _ => xorsum_perm, fun l b => ?_, rfl⟩
  · rw [xorsum_append, xorsum_cons, xorsum_nil, BitVec.xor_zero]
  · rw [xorsum_cons, xorsum_cons, ← BitVec.xor_assoc, BitVec.xor_self, BitVec.zero_xor]

/-! ## The codec check (R128) -/

/-- R88: the last byte is the XOR of the others exactly where all bytes XOR to 0x00. -/
theorem getLast?_eq_xorsum_dropLast_iff {p : List Byte} (hp : p ≠ []) :
    p.getLast? = some (xorsum p.dropLast) ↔ xorsum p = 0x00#8 := by
  have hsplit : xorsum p = xorsum p.dropLast ^^^ p.getLast hp := by
    conv_lhs => rw [← List.dropLast_append_getLast hp]
    rw [xorsum_append, xorsum_cons, xorsum_nil, BitVec.xor_zero]
  rw [List.getLast?_eq_some_getLast hp, Option.some.injEq, hsplit, BitVec.xor_eq_zero_iff, eq_comm]

/-- R117: a packet accepted by the codec check has a header and a checksum, and its bytes XOR to 0x00. -/
theorem xorsum_of_codecCheck {p : List Byte} {magic : Byte} {r : Byte × List Byte} (h : codecCheck p magic = .ok r) :
    4 < p.length ∧ xorsum p = 0x00#8 := by
  unfold codecCheck at h
  split at h
  · rename_i m code lo hi rest
    split_ifs at h with hrest hmagic hsum
    refine ⟨?_, (getLast?_eq_xorsum_dropLast_iff (List.cons_ne_nil _ _)).1 (not_not.1 hsum)⟩
    have := List.length_pos_iff.2 hrest
    simp only [List.length_cons]; omega
  · cases h

/-- A byte string long enough for a packet whose bytes do not XOR to 0x00 fails at the magic byte or at the checksum. -/
theorem codecCheck_of_xorsum_ne {p : List Byte} (hlen : 4 < p.length) (hsum : xorsum p ≠ 0x00#8) (magic : Byte) :
    codecCheck p magic = .error .checksumError ∨ codecCheck p magic = .error .magicError := by
  match p, hlen with
  | m :: code :: lo :: hi :: b :: rest, _ =>
    have hlast := mt (getLast?_eq_xorsum_dropLast_iff (List.cons_ne_nil _ _)).1 hsum
    by_cases hm : m = magic
    · exact .inl (by rw [codecCheck, if_neg (List.cons_ne_nil _ _), if_neg (not_not.2 hm), if_pos hlast])
    · exact .inr (by rw [codecCheck, if_neg (List.cons_ne_nil _ _), if_pos hm])

/-- Changing one byte changes the XOR of all by the same mask. -/
theorem xorsum_set {p : List Byte} {k : Nat} (hk : k < p.length) (mask : Byte) :
    xorsum (p.set k (p.getD k 0x00#8 ^^^ mask)) = xorsum p ^^^ mask := by
  induction p generalizing k with
  | nil => cases hk
  | cons b p ih =>
    cases k with
    | zero =>
      rw [List.getD_cons_zero, List.set_cons_zero, xorsum_cons, xorsum_cons, BitVec.xor_assoc, BitVec.xor_assoc,
        BitVec.xor_comm mask]
    | succ k =>
      rw [List.getD_cons_succ, List.set_cons_succ, xorsum_cons, xorsum_cons, ih (Nat.lt_of_succ_lt_succ hk),
        BitVec.xor_assoc]

/-- Settles O8: an accepted packet XORs to 0x00, and so its bytes with one changed by `mask` XOR to `mask`. -/
theorem codecDetectsChangedByte : Obligations.CodecDetectsChangedByte := by
  intro p payload magic code mask k h hk hmask
  obtain ⟨hlen, hsum⟩ := xorsum_of_codecCheck h
  refine codecCheck_of_xorsum_ne (by rwa [List.length_set]) ?_ magic
  rwa [xorsum_set hk, hsum, BitVec.zero_xor]

/-- Settles O7: a framed packet XORs to 0x00, and its length field, read back, is the payload's length. -/
theorem codecRoundTrip : Obligations.CodecRoundTrip := by
  intro magic code payload hlen
  have hcount : (BitVec.ofNat 16 payload.length).toNat = payload.length := by
    rw [BitVec.toNat_ofNat]; omega
  have hsum : (framed magic code payload).getLast? = some (xorsum (framed magic code payload).dropLast) :=
    (getLast?_eq_xorsum_dropLast_iff (by rw [framed_eq]; exact List.cons_ne_nil _ _)).2 (xorsum_framed _ _ _)
  rw [framed_eq] at hsum ⊢
  rw [codecCheck, if_neg (by simp), if_neg (not_not.2 rfl), if_neg (not_not.2 hsum), le16_extract, hcount,
    if_neg (by simp), List.take_left]

end Sys2Proof
end

section
/-! SUPPORT. The receiver (40_framing.md R118 to R127), arm by arm: an equation for each row of its table, and the
statements that follow from one row. -/

namespace Sys2Proof.Machine

/-! ## The rows of R118, one equation each -/

section Rows

variable {s : State} {b : Byte}

theorem receiverStep_idle_magic (hst : s.rstate = .idle) :
    receiverStep Config.magicCmd s = .next { s.storeHeader 0 Config.magicCmd with rstate := .cmd } := by
  simp only [receiverStep, hst, if_true]

theorem receiverStep_idle_other (hst : s.rstate = .idle) (hb : b ≠ Config.magicCmd) :
    receiverStep b s = .next s := by
  simp only [receiverStep, hst, if_neg hb]

theorem receiverStep_cmd (hst : s.rstate = .cmd) :
    receiverStep b s = .next { s.storeHeader 1 b with rstate := .lenLo } := by
  simp only [receiverStep, hst]

theorem receiverStep_lenLo (hst : s.rstate = .lenLo) :
    receiverStep b s = .next { s.storeHeader 2 b with rstate := .lenHi } := by
  simp only [receiverStep, hst]

theorem receiverStep_lenHi (hst : s.rstate = .lenHi) : receiverStep b s = .next (receiveLenHi b s) := by
  simp only [receiverStep, hst]

theorem receiverStep_checksum (hst : s.rstate = .checksum) (hpos : s.rxpos.toNat < Config.rxbufSize) :
    receiverStep b s = andThen (validateAndDispatch b (s.storeRx b)) State.toReceiverIdle := by
  simp only [receiverStep, hst, if_pos hpos]

/-- R122. -/
theorem receiveLenHi_overLength (hlen : Config.rxMaxPayload < (le16 (Memory.get s.rxbuf 2) b).toNat) :
    receiveLenHi b s = { s.storeHeader 3 b with rxlen := le16 (Memory.get s.rxbuf 2) b }.toReceiverIdle :=
  if_pos hlen

/-- R127. -/
theorem receiveLenHi_zero (hlen : (le16 (Memory.get s.rxbuf 2) b).toNat = 0) :
    receiveLenHi b s =
      { s.storeHeader 3 b with rxlen := le16 (Memory.get s.rxbuf 2) b, rstate := .checksum } := by
  simp only [receiveLenHi]
  rw [if_neg (by omega), if_pos (BitVec.eq_of_toNat_eq hlen)]

theorem receiveLenHi_payload (hpos : 0 < (le16 (Memory.get s.rxbuf 2) b).toNat)
    (hlen : (le16 (Memory.get s.rxbuf 2) b).toNat ≤ Config.rxMaxPayload) :
    receiveLenHi b s =
      { s.storeHeader 3 b with rxlen := le16 (Memory.get s.rxbuf 2) b, rxcnt := 0, rstate := .data } := by
  have hne : le16 (Memory.get s.rxbuf 2) b ≠ 0 := fun h => by simp [h] at hpos
  simp only [receiveLenHi]
  rw [if_neg (Nat.not_lt.2 hlen), if_neg hne]

/-- R122: RXLEN is the length field just completed, whatever comes of it. -/
theorem receiveLenHi_rxlen : (receiveLenHi b s).rxlen = le16 (Memory.get s.rxbuf 2) b := by
  simp only [receiveLenHi]
  split_ifs <;> rfl

/-- The payload byte that makes RXCNT reach RXLEN is the last; RXCNT counts without wrapping, since RXLEN is at most
1024. -/
theorem receiverStep_data (hst : s.rstate = .data) (hpos : s.rxpos.toNat = 4 + s.rxcnt.toNat)
    (hcnt : s.rxcnt.toNat < s.rxlen.toNat) (hlen : s.rxlen.toNat ≤ Config.rxMaxPayload) :
    receiverStep b s = .next
      { s.storeRx b with
        rxcnt := s.rxcnt + 1,
        rstate := if s.rxcnt.toNat + 1 = s.rxlen.toNat then .checksum else .data } := by
  have hmax : Config.rxMaxPayload = 1024 := rfl
  have hsize : Config.rxbufSize = 1029 := rfl
  have hcnt' : (s.rxcnt + 1).toNat = s.rxcnt.toNat + 1 := by bv_omega
  simp only [receiverStep, hst, if_pos (show s.rxpos.toNat < Config.rxbufSize by omega), receiveData, hcnt',
    storeRx_rxlen]
  split_ifs
  · rfl
  · rw [← hst]; rfl

end Rows

/-! ## The last byte of a packet (R123, R124) -/

/-- A whole packet and its checksum are within RXBUF (R81). -/
theorem rxpos_lt_rxbufSize {s : State} (hpos : s.rxpos.toNat = 4 + s.rxlen.toNat)
    (hlen : s.rxlen.toNat ≤ Config.rxMaxPayload) : s.rxpos.toNat < Config.rxbufSize := by
  have hmax : Config.rxMaxPayload = 1024 := rfl
  have hsize : Config.rxbufSize = 1029 := rfl
  omega

section LastByte

variable {s : State} {b : Byte} (hwf : Memory.wf s.rxbuf = true) (hpos : s.rxpos.toNat = 4 + s.rxlen.toNat)
  (hlen : s.rxlen.toNat ≤ Config.rxMaxPayload)

include hwf hpos

/-- Storing the checksum byte leaves the code and the payload. -/
theorem rxInstr_storeRx :
    (s.storeRx b).rxInstr = decodeOp (Memory.get s.rxbuf 1) (Memory.slice s.rxbuf 4 s.rxlen.toNat) := by
  rw [State.rxInstr, State.rxPayload, storeRx_rxbuf, storeRx_rxlen, get_set hwf, if_neg (by omega),
    slice_set_above hwf b (by omega)]

include hlen

/-- Storing the checksum byte leaves the bytes it is computed from. -/
theorem slice_before_checksum :
    Memory.slice (s.storeRx b).rxbuf 0 ((s.storeRx b).rxpos.toNat - 1) =
      Memory.slice s.rxbuf 0 (4 + s.rxlen.toNat) := by
  have hmax : Config.rxMaxPayload = 1024 := rfl
  have hpos' : (s.storeRx b).rxpos.toNat - 1 = 4 + s.rxlen.toNat := by rw [storeRx_rxpos]; bv_omega
  rw [hpos', storeRx_rxbuf, slice_set_above hwf b (by omega)]

theorem receiverStep_wrong_checksum (hst : s.rstate = .checksum)
    (hb : b ≠ xorsum (Memory.slice s.rxbuf 0 (4 + s.rxlen.toNat))) :
    receiverStep b s = .next ((s.storeRx b).raise .invalidChecksum).toReceiverIdle := by
  rw [receiverStep_checksum hst (rxpos_lt_rxbufSize hpos hlen), validateAndDispatch,
    slice_before_checksum hwf hpos hlen, if_pos hb, andThen_next]

theorem receiverStep_right_checksum (hst : s.rstate = .checksum)
    (hb : b = xorsum (Memory.slice s.rxbuf 0 (4 + s.rxlen.toNat))) :
    receiverStep b s =
      andThen (exec (decodeOp (Memory.get s.rxbuf 1) (Memory.slice s.rxbuf 4 s.rxlen.toNat)) (s.storeRx b))
        State.toReceiverIdle := by
  have hsize : Config.rxbufSize = 1029 := rfl
  have hmax : Config.rxMaxPayload = 1024 := rfl
  rw [receiverStep_checksum hst (rxpos_lt_rxbufSize hpos hlen), validateAndDispatch,
    slice_before_checksum hwf hpos hlen, if_neg (not_not.2 hb), if_neg (by rw [storeRx_rxlen]; omega),
    rxInstr_storeRx hwf hpos]

end LastByte

/-! ## Every row at once -/

/-- What a byte makes of a legal state: one constructor for each row of R118, R_LEN_HI having three (R122, R127) and
R_CHECKSUM two (R123, R124). -/
inductive ReceiverRow (s : State) (b : Byte) : State → Prop
  | discarded (hst : s.rstate = .idle) (hb : b ≠ Config.magicCmd) : ReceiverRow s b s
  | magic (hst : s.rstate = .idle) (hb : b = Config.magicCmd) :
      ReceiverRow s b { s.storeHeader 0 b with rstate := .cmd }
  | code (hst : s.rstate = .cmd) : ReceiverRow s b { s.storeHeader 1 b with rstate := .lenLo }
  | lenLo (hst : s.rstate = .lenLo) : ReceiverRow s b { s.storeHeader 2 b with rstate := .lenHi }
  | overLength (hst : s.rstate = .lenHi) (hlen : Config.rxMaxPayload < (le16 (Memory.get s.rxbuf 2) b).toNat) :
      ReceiverRow s b { s.storeHeader 3 b with rxlen := le16 (Memory.get s.rxbuf 2) b }.toReceiverIdle
  | noPayload (hst : s.rstate = .lenHi) (hlen : (le16 (Memory.get s.rxbuf 2) b).toNat = 0) :
      ReceiverRow s b { s.storeHeader 3 b with rxlen := le16 (Memory.get s.rxbuf 2) b, rstate := .checksum }
  | payload (hst : s.rstate = .lenHi) (hpos : 0 < (le16 (Memory.get s.rxbuf 2) b).toNat)
      (hlen : (le16 (Memory.get s.rxbuf 2) b).toNat ≤ Config.rxMaxPayload) :
      ReceiverRow s b
        { s.storeHeader 3 b with rxlen := le16 (Memory.get s.rxbuf 2) b, rxcnt := 0, rstate := .data }
  | data (hst : s.rstate = .data) :
      ReceiverRow s b
        { s.storeRx b with
          rxcnt := s.rxcnt + 1,
          rstate := if s.rxcnt.toNat + 1 = s.rxlen.toNat then .checksum else .data }
  | wrongChecksum (hst : s.rstate = .checksum) (hb : b ≠ xorsum (Memory.slice s.rxbuf 0 (4 + s.rxlen.toNat))) :
      ReceiverRow s b ((s.storeRx b).raise .invalidChecksum).toReceiverIdle
  | dispatch (hst : s.rstate = .checksum) (hb : b = xorsum (Memory.slice s.rxbuf 0 (4 + s.rxlen.toNat))) {u : State}
      (hu : exec (decodeOp (Memory.get s.rxbuf 1) (Memory.slice s.rxbuf 4 s.rxlen.toNat)) (s.storeRx b) = .next u) :
      ReceiverRow s b u.toReceiverIdle

/-- A legal receiver takes any byte, by one of the rows (R81, R120). -/
theorem receiverStep_row {s : State} (b : Byte) (hwf : Memory.wf s.rxbuf = true) (hs : ReceiverLegal s) :
    ∃ t, receiverStep b s = .next t ∧ ReceiverRow s b t := by
  obtain ⟨-, -, -, -, hdata, hcheck, -⟩ := hs
  cases hst : s.rstate with
  | idle =>
    by_cases hb : b = Config.magicCmd
    · subst hb; exact ⟨_, receiverStep_idle_magic hst, .magic hst rfl⟩
    · exact ⟨s, receiverStep_idle_other hst hb, .discarded hst hb⟩
  | cmd => exact ⟨_, receiverStep_cmd hst, .code hst⟩
  | lenLo => exact ⟨_, receiverStep_lenLo hst, .lenLo hst⟩
  | lenHi =>
    refine ⟨_, receiverStep_lenHi hst, ?_⟩
    rcases Nat.lt_or_ge Config.rxMaxPayload (le16 (Memory.get s.rxbuf 2) b).toNat with hover | hlen
    · rw [receiveLenHi_overLength hover]; exact .overLength hst hover
    · rcases Nat.eq_zero_or_pos (le16 (Memory.get s.rxbuf 2) b).toNat with hzero | hpos
      · rw [receiveLenHi_zero hzero]; exact .noPayload hst hzero
      · rw [receiveLenHi_payload hpos hlen]; exact .payload hst hpos hlen
  | data =>
    obtain ⟨hpos, hcnt, hlen⟩ := hdata hst
    exact ⟨_, receiverStep_data hst hpos hcnt hlen, .data hst⟩
  | checksum =>
    obtain ⟨hpos, hlen⟩ := hcheck hst
    by_cases hb : b = xorsum (Memory.slice s.rxbuf 0 (4 + s.rxlen.toNat))
    · obtain ⟨u, hu, -⟩ := exec_total
        (decodeOp (Memory.get s.rxbuf 1) (Memory.slice s.rxbuf 4 s.rxlen.toNat)) (s.storeRx b)
      refine ⟨u.toReceiverIdle, ?_, .dispatch hst hb hu⟩
      rw [receiverStep_right_checksum hwf hpos hlen hst hb, hu, andThen_next]
    · exact ⟨_, receiverStep_wrong_checksum hwf hpos hlen hst hb, .wrongChecksum hst hb⟩

theorem receiverRow_of_step {s t : State} {b : Byte} (hwf : Memory.wf s.rxbuf = true) (hs : ReceiverLegal s)
    (h : receiverStep b s = .next t) : ReceiverRow s b t := by
  obtain ⟨u, hu, hrow⟩ := receiverStep_row b hwf hs
  rw [h, Host.Outcome.next.injEq] at hu
  exact hu ▸ hrow

section FrameOfARow

variable {s t : State} {b : Byte} (h : ReceiverRow s b t)

include h

/-- R120: a byte that is not discarded is stored at RXBUF[RXPOS]. -/
theorem receiverRow_rxbuf (hs : ReceiverLegal s) (htaken : s.rstate ≠ .idle ∨ b = Config.magicCmd) :
    t.rxbuf = Memory.set s.rxbuf s.rxpos.toNat b := by
  obtain ⟨hidle, hcmd, hlo, hhi, -⟩ := hs
  cases h with
  | discarded hst hb => simp [hst, hb] at htaken
  | magic hst => rw [hidle hst]; rfl
  | code hst => rw [hcmd hst]; rfl
  | lenLo hst => rw [hlo hst]; rfl
  | overLength hst => rw [hhi hst]; rfl
  | noPayload hst => rw [hhi hst]; rfl
  | payload hst => rw [hhi hst]; rfl
  | data => rfl
  | wrongChecksum => rfl
  | dispatch _ _ hu => rw [exec_eq_opWrites hu]; rfl

/-- Only R_LEN_HI writes RXLEN. -/
theorem receiverRow_rxlen (hst : s.rstate ≠ .lenHi) : t.rxlen = s.rxlen := by
  cases h with
  | overLength hst' => exact absurd hst' hst
  | noPayload hst' => exact absurd hst' hst
  | payload hst' => exact absurd hst' hst
  | dispatch _ _ hu => rw [exec_eq_opWrites hu]; rfl
  | _ => rfl

/-- Only R_LEN_HI and R_DATA write RXCNT. -/
theorem receiverRow_rxcnt (hhi : s.rstate ≠ .lenHi) (hdata : s.rstate ≠ .data) : t.rxcnt = s.rxcnt := by
  cases h with
  | payload hst => exact absurd hst hhi
  | data hst => exact absurd hst hdata
  | dispatch _ _ hu => rw [exec_eq_opWrites hu]; rfl
  | _ => rfl

/-- Before R_CHECKSUM a byte writes nothing but the receiver's own state. -/
theorem receiverRow_frame (hst : s.rstate ≠ .checksum) :
    { t with
      rstate := s.rstate, rxpos := s.rxpos, rxlen := s.rxlen, rxcnt := s.rxcnt, rxbuf := s.rxbuf } = s := by
  cases h with
  | wrongChecksum hst' => exact absurd hst' hst
  | dispatch hst' => exact absurd hst' hst
  | _ => rfl

end FrameOfARow

/-- Settles O27: validation and dispatch, whatever they answer, are followed by the return to R_IDLE. -/
theorem receiverReturnsAfterChecksum : Obligations.ReceiverReturnsAfterChecksum := by
  intro s t b hst h
  simp only [receiverStep, hst] at h
  split_ifs at h
  obtain ⟨u, -, rfl⟩ := andThen_eq_next h
  exact ⟨rfl, rfl⟩

/-- Settles O25: the wrong checksum is raised on the state with the byte stored, and nothing is dispatched. -/
theorem badChecksumAnswered : Obligations.BadChecksumAnswered := by
  intro s b ⟨_, ⟨_, _, ⟨hwf, _⟩, _⟩, _, hrecv, _⟩ hst hb
  obtain ⟨-, -, -, -, -, hcheck, -⟩ := hrecv
  obtain ⟨hpos, hlen⟩ := hcheck hst
  refine ⟨_, receiverStep_wrong_checksum hwf hpos hlen hst hb, congrArg some (by decide), rfl, rfl, fun a ha => ?_, ?_,
    fun a => ⟨rfl, rfl⟩⟩
  · rw [toReceiverIdle_rxbuf, raise_rxbuf, storeRx_rxbuf, get_set hwf, if_neg ha]
  · simp only [State.toReceiverIdle, State.raise, State.respond, State.storeRx]

/-- Settles O26: the length's high byte is stored at index 3, RXLEN is written, and the receiver returns to R_IDLE. -/
theorem overLengthAbandoned : Obligations.OverLengthAbandoned := by
  intro s b ⟨_, ⟨_, _, ⟨hwf, _⟩, _⟩, _⟩ hst hlen
  refine ⟨_, (receiverStep_lenHi hst).trans (congrArg _ (receiveLenHi_overLength hlen)), rfl, rfl, rfl, fun a ha => ?_, ?_,
    fun a => ⟨rfl, rfl⟩⟩
  · rw [toReceiverIdle_rxbuf, storeHeader_rxbuf, get_set hwf, if_neg ha]
  · simp only [State.toReceiverIdle, State.storeHeader]

/-! ## The whole table -/

/-- Settles O22: each row from its equation, and what every row stores and leaves from the rows at once. -/
theorem receiverTransitionTable : Obligations.ReceiverTransitionTable := by
  intro s b ⟨_, ⟨_, _, ⟨hwf, _⟩, _⟩, _, hrecv, _⟩
  obtain ⟨t, ht, hrow⟩ := receiverStep_row b hwf hrecv
  have hstored := receiverRow_rxbuf hrow hrecv
  have hframe := receiverRow_frame hrow
  have hrxlen := receiverRow_rxlen hrow
  have hrxcnt := receiverRow_rxcnt hrow
  obtain ⟨-, -, -, hhi, hdata, hcheck, -⟩ := hrecv
  have hback := receiverReturnsAfterChecksum s t b
  refine ⟨t, ht, ?magic, ?discarded, ?cmd, ?lenLo, ?lenHi, ?overLength, ?noPayload, ?payload, ?data,
    fun hst => hback hst ht, ?wrong, ?right, ?stored, hrxlen, hrxcnt, hframe⟩
  case magic =>
    rintro hst rfl
    cases (receiverStep_idle_magic hst).symm.trans ht
    exact ⟨rfl, rfl, (get_set hwf _ _ _).trans (if_pos rfl)⟩
  case discarded =>
    intro hst hb
    cases (receiverStep_idle_other hst hb).symm.trans ht
    rfl
  case cmd =>
    intro hst
    cases (receiverStep_cmd hst).symm.trans ht
    exact ⟨rfl, rfl, (get_set hwf _ _ _).trans (if_pos rfl)⟩
  case lenLo =>
    intro hst
    cases (receiverStep_lenLo hst).symm.trans ht
    exact ⟨rfl, rfl, (get_set hwf _ _ _).trans (if_pos rfl)⟩
  case lenHi =>
    intro hst
    have hb : Memory.get t.rxbuf 3 = b := by rw [hstored (by simp [hst]), hhi hst, get_set hwf, if_pos rfl]
    cases (receiverStep_lenHi hst).symm.trans ht
    exact ⟨receiveLenHi_rxlen, hb⟩
  case overLength =>
    intro hst hlen
    cases (receiverStep_lenHi hst).symm.trans ht
    rw [receiveLenHi_overLength hlen]
    exact ⟨rfl, rfl, rfl⟩
  case noPayload =>
    intro hst hlen
    cases (receiverStep_lenHi hst).symm.trans ht
    rw [receiveLenHi_zero hlen]
    exact ⟨rfl, rfl, rfl⟩
  case payload =>
    intro hst hpos hlen
    cases (receiverStep_lenHi hst).symm.trans ht
    rw [receiveLenHi_payload hpos hlen]
    exact ⟨rfl, rfl, rfl⟩
  case data =>
    intro hst
    obtain ⟨hpos, hcnt, hlen⟩ := hdata hst
    cases (receiverStep_data hst hpos hcnt hlen).symm.trans ht
    exact ⟨rfl, rfl, rfl⟩
  case wrong =>
    intro hst hb
    obtain ⟨hpos, hlen⟩ := hcheck hst
    exact (Host.Outcome.next.inj ((receiverStep_wrong_checksum hwf hpos hlen hst hb).symm.trans ht)).symm
  case right =>
    intro hst hb
    obtain ⟨hpos, hlen⟩ := hcheck hst
    rw [receiverStep_right_checksum hwf hpos hlen hst hb] at ht
    exact andThen_eq_next ht
  case stored =>
    intro htaken
    rw [hstored htaken]
    exact ⟨by rw [get_set hwf, if_pos rfl], fun a ha => by rw [get_set hwf, if_neg ha]⟩

end Sys2Proof.Machine
end

section
/-! SUPPORT. The receiver over ticks and packets (40_framing.md R119 to R130). -/

namespace Sys2Proof.Machine

/-! ## Phase 1 in one tick -/

/-- Settles O24: without a byte phase 1 does nothing, and phases 2 and 3 leave the receiver alone. -/
theorem noByteKeepsReceiver : Obligations.NoByteKeepsReceiver := by
  intro s t h hr hrx
  obtain ⟨u, hu, rfl⟩ := step_of_no_reset h hr
  rw [hrx] at hu
  cases hu
  simp

/-- A byte on which phase 1 leaves the state alone is as good as none. -/
theorem step_of_byte_ignored {s : State} {b : Byte} {later : List PortInput}
    (h : receiverStep b { s with inputs := later, resp := none } = .next { s with inputs := later, resp := none }) :
    step { s with inputs := ⟨false, some b⟩ :: later } = step { s with inputs := ⟨false, none⟩ :: later } := by
  have hbegin : ∀ p : PortInput, { s with inputs := p :: later }.beginTick = { s with inputs := later, resp := none } :=
    fun _ => rfl
  have hport : ∀ p : PortInput, { s with inputs := p :: later }.portInput = p := fun _ => rfl
  simp only [step, tick, State.resetNow, hport, hbegin, commandPort, h]

/-- Settles O23: R_IDLE leaves the state alone on any byte but 0xAA, and a response takes a byte in R_CHECKSUM. -/
theorem nonMagicByteDiscarded : Obligations.NonMagicByteDiscarded := by
  intro s b later hst hb
  refine ⟨receiverStep_idle_other hst hb, step_of_byte_ignored (receiverStep_idle_other hst hb), fun t ht => ?_⟩
  rw [← Option.not_isSome_iff_eq_none, oneResponsePerPacket _ t ht]
  simp [hst]

/-- Settles O1: what decodes is a well-formed operation's packet, and the tick of its last byte dispatches it. -/
theorem stepRunsDecodedInstruction : Obligations.StepRunsDecodedInstruction := by
  intro s b i ⟨_, ⟨_, _, ⟨hwf, _⟩, _⟩, _, hrecv, _⟩ hr hrx hst hdec
  obtain ⟨-, -, -, -, -, hcheck, -⟩ := hrecv
  obtain ⟨hpos, hlen⟩ := hcheck hst
  obtain ⟨hwfi, -⟩ := decodedBytesAreItsPacket _ _ _ hdec
  exact ⟨hwfi, step_of_decode hwf hr hrx hst hpos hlen hdec⟩

/-! ## A packet, byte by byte (R120, R124) -/

theorem receiveAll_cons {b : Byte} {bytes : List Byte} {s t : State} (h : receiverStep b s = .next t) :
    receiveAll (b :: bytes) s = receiveAll bytes t := by
  rw [receiveAll, h]

theorem receiveAll_append {xs ys : List Byte} {s t : State} (h : receiveAll xs s = .next t) :
    receiveAll (xs ++ ys) s = receiveAll ys t := by
  induction xs generalizing s with
  | nil => cases h; rfl
  | cons b xs ih =>
    cases hu : receiverStep b s with
    | next u =>
      rw [receiveAll_cons hu] at h
      rw [List.cons_append, receiveAll_cons hu, ih h]
    | fault r => rw [receiveAll, hu] at h; cases h
    | refused r => rw [receiveAll, hu] at h; cases h

/-- What the receiver can write before a packet's last byte: its own state. -/
def rxWrites (s t : State) : State :=
  { s with rstate := t.rstate, rxbuf := t.rxbuf, rxpos := t.rxpos, rxlen := t.rxlen, rxcnt := t.rxcnt }

/-- `r` is `s` with `bytes` stored as the first bytes of a packet. -/
structure PacketStored (s : State) (bytes : List Byte) (r : State) : Prop where
  frame : r = rxWrites s r
  wf : Memory.wf r.rxbuf = true
  pos : r.rxpos.toNat = bytes.length
  stored : Memory.slice r.rxbuf 0 bytes.length = bytes

/-- The stored bytes are a matter of RXBUF and RXPOS: the rest of the receiver's state may change. -/
theorem packetStored_congr {s r r' : State} {bytes : List Byte} (h : PacketStored s bytes r) (hr : r' = rxWrites r r')
    (hbuf : r'.rxbuf = r.rxbuf) (hpos : r'.rxpos = r.rxpos) : PacketStored s bytes r' := by
  obtain ⟨hframe, hwf, hpos', hstored⟩ := h
  refine ⟨?_, hbuf ▸ hwf, hpos ▸ hpos', hbuf ▸ hstored⟩
  rw [hr, hframe]; rfl

theorem storeHeader_eq_storeRx {s : State} {k : Nat} (b : Byte) (h : s.rxpos.toNat = k) :
    s.storeHeader k b = s.storeRx b := by
  have hpos : BitVec.ofNat 11 (k + 1) = s.rxpos + 1 := by
    rw [← h]; bv_omega
  rw [State.storeHeader, State.storeRx, h, hpos]

/-- The next byte goes behind the stored ones. -/
theorem packetStored_storeRx {s r : State} {bytes : List Byte} (h : PacketStored s bytes r) (b : Byte)
    (hroom : bytes.length < Config.rxbufSize) : PacketStored s (bytes ++ [b]) (r.storeRx b) := by
  obtain ⟨hframe, hwf, hpos, hstored⟩ := h
  have hsize : Config.rxbufSize = 1029 := rfl
  refine ⟨?_, set_wf hwf _ _, ?_, ?_⟩
  · rw [hframe]; rfl
  · rw [storeRx_rxpos, List.length_append, List.length_singleton]; bv_omega
  · rw [List.length_append, List.length_singleton, ← slice_append, storeRx_rxbuf, hpos, Nat.zero_add,
      slice_set_above hwf b (by omega), hstored]
    simp [get_set hwf, Memory.slice]

/-- A header byte has a fixed place, which is the place behind the bytes stored so far. -/
theorem packetStored_storeHeader {s r : State} {bytes : List Byte} (h : PacketStored s bytes r) (b : Byte)
    (st : RState) (hroom : bytes.length < Config.rxbufSize) :
    PacketStored s (bytes ++ [b]) { r.storeHeader bytes.length b with rstate := st } := by
  rw [storeHeader_eq_storeRx b h.pos]
  exact packetStored_congr (packetStored_storeRx h b hroom) rfl rfl rfl

/-- The header of a packet (R118): the four bytes are stored, RXLEN is the length they declare, and the payload comes next,
or the checksum where there is none. -/
theorem receiveAll_header {s : State} (code lo hi : Byte) (hwf : Memory.wf s.rxbuf = true) (hst : s.rstate = .idle)
    (hlen : (le16 lo hi).toNat ≤ Config.rxMaxPayload) :
    ∃ r, receiveAll [Config.magicCmd, code, lo, hi] s = .next r ∧
      PacketStored s [Config.magicCmd, code, lo, hi] r ∧ r.rxlen = le16 lo hi ∧
      (((le16 lo hi).toNat = 0 ∧ r.rstate = .checksum) ∨
        (0 < (le16 lo hi).toNat ∧ r.rstate = .data ∧ r.rxcnt.toNat = 0)) := by
  have h₀ : PacketStored s [] { s with rxpos := 0 } := ⟨rfl, hwf, rfl, rfl⟩
  obtain ⟨r₁, hr₁, h₁, hst₁⟩ : ∃ r, receiverStep Config.magicCmd s = .next r ∧
      PacketStored s [Config.magicCmd] r ∧ r.rstate = .cmd :=
    ⟨_, receiverStep_idle_magic hst, packetStored_storeHeader h₀ _ _ (by simp [Config.rxbufSize]), rfl⟩
  obtain ⟨r₂, hr₂, h₂, hst₂⟩ : ∃ r, receiverStep code r₁ = .next r ∧
      PacketStored s [Config.magicCmd, code] r ∧ r.rstate = .lenLo :=
    ⟨_, receiverStep_cmd hst₁, packetStored_storeHeader h₁ _ _ (by simp [Config.rxbufSize]), rfl⟩
  obtain ⟨r₃, hr₃, h₃, hst₃⟩ : ∃ r, receiverStep lo r₂ = .next r ∧
      PacketStored s [Config.magicCmd, code, lo] r ∧ r.rstate = .lenHi :=
    ⟨_, receiverStep_lenLo hst₂, packetStored_storeHeader h₂ _ _ (by simp [Config.rxbufSize]), rfl⟩
  have hlo : Memory.get r₃.rxbuf 2 = lo := by
    have hstored := h₃.stored
    simp only [List.length_cons, List.length_nil, slice_succ, List.cons.injEq] at hstored
    obtain ⟨-, -, hlo, -⟩ := hstored
    exact hlo
  rw [receiveAll_cons hr₁, receiveAll_cons hr₂, receiveAll_cons hr₃, receiveAll_cons (receiverStep_lenHi hst₃)]
  subst hlo
  have h₄ := fun st => packetStored_storeHeader h₃ hi st (by simp [Config.rxbufSize])
  rcases Nat.eq_zero_or_pos (le16 (Memory.get r₃.rxbuf 2) hi).toNat with hzero | hpos
  · refine ⟨_, rfl, ?_⟩
    rw [receiveLenHi_zero hzero]
    exact ⟨packetStored_congr (h₄ .checksum) rfl rfl rfl, rfl, .inl ⟨hzero, rfl⟩⟩
  · refine ⟨_, rfl, ?_⟩
    rw [receiveLenHi_payload hpos hlen]
    exact ⟨packetStored_congr (h₄ .data) rfl rfl rfl, rfl, .inr ⟨hpos, rfl, rfl⟩⟩

/-- The payload of a packet (R120): the bytes are stored, and the last of them is followed by the checksum. -/
theorem receiveAll_payload {s r : State} {bytes p : List Byte} (h : PacketStored s bytes r) (hst : r.rstate = .data)
    (hbytes : bytes.length = 4 + r.rxcnt.toNat) (hp : r.rxcnt.toNat + p.length = r.rxlen.toNat) (hne : p ≠ [])
    (hlen : r.rxlen.toNat ≤ Config.rxMaxPayload) :
    ∃ r', receiveAll p r = .next r' ∧ PacketStored s (bytes ++ p) r' ∧ r'.rxlen = r.rxlen ∧
      r'.rstate = .checksum := by
  have hmax : Config.rxMaxPayload = 1024 := rfl
  have hsize : Config.rxbufSize = 1029 := rfl
  induction p generalizing r bytes with
  | nil => exact absurd rfl hne
  | cons b p ih =>
    rw [List.length_cons] at hp
    have hstep := receiverStep_data (b := b) hst (h.pos.trans hbytes) (by omega) hlen
    have hcnt : (r.rxcnt + 1).toNat = r.rxcnt.toNat + 1 := by bv_omega
    have hnext := packetStored_congr (packetStored_storeRx h b (by omega))
      (r' := { r.storeRx b with
        rxcnt := r.rxcnt + 1,
        rstate := if r.rxcnt.toNat + 1 = r.rxlen.toNat then .checksum else .data }) rfl rfl rfl
    rw [receiveAll_cons hstep]
    by_cases hlast : p = []
    · subst hlast
      exact ⟨_, rfl, hnext, rfl, if_pos (by simpa using hp)⟩
    · have hmore : 0 < p.length := List.length_pos_iff.2 hlast
      rw [List.append_cons]
      refine ih hnext (if_neg (by omega)) ?_ ?_ hlast hlen
      · simp only [hcnt, List.length_append, List.length_singleton]; omega
      · simp only [hcnt, storeRx_rxlen]; omega

/-- All of a packet but its checksum. -/
theorem receiveAll_body {s : State} {lo hi : Byte} {p : List Byte} (code : Byte) (hwf : Memory.wf s.rxbuf = true)
    (hst : s.rstate = .idle) (hp : p.length = (le16 lo hi).toNat) (hlen : p.length ≤ Config.rxMaxPayload) :
    ∃ r, receiveAll (Config.magicCmd :: code :: lo :: hi :: p) s = .next r ∧
      PacketStored s (Config.magicCmd :: code :: lo :: hi :: p) r ∧ r.rxlen.toNat = p.length ∧
      r.rstate = .checksum := by
  obtain ⟨r, hr, hstored, hrxlen, hnext⟩ := receiveAll_header code lo hi hwf hst (hp ▸ hlen)
  rcases hnext with ⟨hzero, hcheck⟩ | ⟨hpos, hdata, hcnt⟩
  · have hnil : p = [] := List.length_eq_zero_iff.1 (hp.trans hzero)
    subst hnil
    exact ⟨r, hr, hstored, by rw [hrxlen, hp], hcheck⟩
  · obtain ⟨r', hr', hstored', hrxlen', hcheck⟩ := receiveAll_payload (p := p) hstored hdata (by simp [hcnt])
      (by rw [hcnt, hrxlen, hp, Nat.zero_add]) (List.length_pos_iff.1 (hp ▸ hpos)) (by rwa [hrxlen, ← hp])
    exact ⟨r', (receiveAll_append hr).trans hr', hstored', by rw [hrxlen', hrxlen, hp], hcheck⟩

/-- R86: a framed packet is its header and its payload, then their checksum. -/
theorem framed_eq_body_append (magic code : Byte) (p : List Byte) :
    framed magic code p =
      (magic :: code :: (BitVec.ofNat 16 p.length).extractLsb' 0 8 :: (BitVec.ofNat 16 p.length).extractLsb' 8 8 :: p) ++
        [xorsum (magic :: code :: (BitVec.ofNat 16 p.length).extractLsb' 0 8 ::
          (BitVec.ofNat 16 p.length).extractLsb' 8 8 :: p)] := rfl

theorem receiveAll_singleton (b : Byte) (s : State) : receiveAll [b] s = receiverStep b s := by
  rw [receiveAll]
  cases receiverStep b s <;> rfl

/-- The last byte of a stored packet dispatches the operation that the packet decodes to. -/
theorem receiverStep_of_packetStored {s r : State} {body : List Byte} {c : Byte} {i : Instr}
    (h : PacketStored s body r) (hst : r.rstate = .checksum) (hbody : body.length = 4 + r.rxlen.toNat)
    (hlen : r.rxlen.toNat ≤ Config.rxMaxPayload) (hdec : decode (body ++ [c]) = .ok (i, [])) :
    receiverStep c r = andThen (exec i (r.storeRx c)) State.toReceiverIdle := by
  have hpos : r.rxpos.toNat = 4 + r.rxlen.toNat := h.pos.trans hbody
  have hdec' : decode (Memory.slice r.rxbuf 0 (4 + r.rxlen.toNat) ++ [c]) = .ok (i, []) := by
    rwa [← hbody, h.stored]
  rw [receiverStep_checksum hst (rxpos_lt_rxbufSize hpos hlen), validateAndDispatch_of_decode h.wf hpos hlen hdec']

/-- Settles O28: the header, then the payload by induction, are stored and nothing else is written; the checksum byte then
dispatches what the stored bytes decode to, and decoding inverts encoding. -/
theorem packetDispatchesItsOperation : Obligations.PacketDispatchesItsOperation := by
  intro i s hwfi hwf hst
  have hdec := decodeInvertsEncode i [] hwfi
  obtain ⟨-, hlen⟩ := codeAndPayload i hwfi
  have hmax : Config.rxMaxPayload = 1024 := rfl
  have hsize : Config.rxbufSize = 1029 := rfl
  have hcount : i.payload.length = (BitVec.ofNat 16 i.payload.length).toNat := by
    rw [BitVec.toNat_ofNat]; omega
  obtain ⟨r, hr, hstored, hrxlen, hcheck⟩ :=
    receiveAll_body (lo := (BitVec.ofNat 16 i.payload.length).extractLsb' 0 8)
      (hi := (BitVec.ofNat 16 i.payload.length).extractLsb' 8 8) i.code hwf hst (by rwa [le16_extract]) hlen
  rw [List.append_nil, encode, framed_eq_body_append] at hdec
  rw [encode, framed_eq_body_append, receiveAll_append hr, receiveAll_singleton]
  refine ⟨r.storeRx _, ?_, receiverStep_of_packetStored hstored hcheck ?_ (by omega) hdec⟩
  · rw [hstored.frame]; rfl
  · simp only [List.length_cons]; omega

end Sys2Proof.Machine
end

section
/-! SUPPORT. Resynchronisation (40_framing.md R129): how many zero bytes the receiver still takes before it is in R_IDLE. -/

namespace Sys2Proof.Machine

/-! ## Every legal state has a next one -/

/-- A tick resets, idles or takes a byte, and a legal receiver takes any byte (R81, R209). -/
theorem step_total {s : State} (hs : s.Inv) : ∃ t, step s = .next t := by
  obtain ⟨-, ⟨-, -, ⟨hwf, -⟩, -⟩, -, hrecv, -⟩ := hs
  by_cases hr : s.resetNow = true
  · exact ⟨_, if_pos hr⟩
  · obtain ⟨u, hu⟩ : ∃ u, commandPort s.portInput.rx s.beginTick = .next u := by
      cases s.portInput.rx with
      | none => exact ⟨_, rfl⟩
      | some b =>
        obtain ⟨u, hu, -⟩ := receiverStep_row (s := s.beginTick) b hwf hrecv
        exact ⟨u, hu⟩
    exact ⟨u.finishTick, by rw [step, tick, if_neg hr, hu, andThen_next]⟩

/-- Every tick takes one entry of the port inputs (log 1). -/
theorem step_inputs {s t : State} (h : step s = .next t) : t.inputs = s.inputs.tail := by
  rcases step_cases h with ⟨-, rfl⟩ | ⟨-, u, hu, rfl⟩
  · rfl
  · obtain ⟨-, -, -, hinputs, -⟩ := commandPort_frameView hu
    rw [finishTick_inputs, hinputs, beginTick_inputs]

/-! ## The receiver under zero bytes -/

/-- A bound on the zero bytes that the receiver takes before it is in R_IDLE: the rest of the header, the rest of the
payload (at most 1024 bytes, R122) and the checksum. -/
def zeroBytesToIdle (s : State) : Nat :=
  match s.rstate with
  | .idle => 0
  | .checksum => 1
  | .data => s.rxlen.toNat - s.rxcnt.toNat + 1
  | .lenHi => 1026
  | .lenLo => 1027
  | .cmd => 1028

theorem zeroBytesToIdle_eq_zero_iff (s : State) : zeroBytesToIdle s = 0 ↔ s.rstate = .idle := by
  cases h : s.rstate <;> simp [zeroBytesToIdle, h]

theorem zeroBytesToIdle_le {s : State} (hs : ReceiverLegal s) : zeroBytesToIdle s ≤ 1028 := by
  obtain ⟨-, -, -, -, hdata, -⟩ := hs
  cases h : s.rstate with
  | data =>
    obtain ⟨-, -, hlen⟩ := hdata h
    have hmax : Config.rxMaxPayload = 1024 := rfl
    simp only [zeroBytesToIdle, h]; omega
  | _ => simp [zeroBytesToIdle, h]

@[simp] theorem zeroBytesToIdle_finishTick (s : State) : zeroBytesToIdle s.finishTick = zeroBytesToIdle s := by
  simp only [zeroBytesToIdle, finishTick_rstate, finishTick_rxlen, finishTick_rxcnt]

/-- A zero byte is no magic byte, so it starts no packet, and it brings a packet begun one byte nearer to its end. -/
theorem zeroBytesToIdle_of_row {s t : State} (hs : ReceiverLegal s) (h : ReceiverRow s 0x00#8 t) :
    zeroBytesToIdle t ≤ zeroBytesToIdle s - 1 := by
  obtain ⟨-, -, -, -, hdata, -⟩ := hs
  have hmax : Config.rxMaxPayload = 1024 := rfl
  cases h with
  | discarded hst => simp [zeroBytesToIdle, hst]
  | magic _ hb => exact absurd hb (by decide)
  | code hst => simp [zeroBytesToIdle, hst]
  | lenLo hst => simp [zeroBytesToIdle, hst]
  | overLength hst => simp [zeroBytesToIdle, hst]
  | noPayload hst => simp [zeroBytesToIdle, hst]
  | payload hst _ hlen => simp only [zeroBytesToIdle, hst]; omega
  | data hst =>
    obtain ⟨-, hcnt, hlen⟩ := hdata hst
    have hcnt' : (s.rxcnt + 1).toNat = s.rxcnt.toNat + 1 := by bv_omega
    by_cases hlast : s.rxcnt.toNat + 1 = s.rxlen.toNat
    · simp only [zeroBytesToIdle, hst, if_pos hlast]; omega
    · simp only [zeroBytesToIdle, hst, if_neg hlast, hcnt', storeRx_rxlen]; omega
  | wrongChecksum hst => simp [zeroBytesToIdle, hst]
  | dispatch hst => simp [zeroBytesToIdle, hst]

/-- One tick with a zero byte; a reset tick goes to R_IDLE at once. -/
theorem zeroBytesToIdle_step {s t : State} (hs : s.Inv) (hin : s.portInput = ⟨false, some 0x00#8⟩)
    (h : step s = .next t) : zeroBytesToIdle t ≤ zeroBytesToIdle s - 1 := by
  obtain ⟨-, ⟨-, -, ⟨hwf, -⟩, -⟩, -, hrecv, -⟩ := hs
  rcases step_cases h with ⟨-, rfl⟩ | ⟨-, u, hu, rfl⟩
  · exact Nat.zero_le _
  · rw [hin] at hu
    rw [zeroBytesToIdle_finishTick]
    exact zeroBytesToIdle_of_row (s := s.beginTick) hrecv (receiverRow_of_step hwf hrecv hu)

/-- The next entry of the port inputs, where more of the same are listed. -/
theorem portInput_of_take {s : State} {p : PortInput} {n : Nat} (h : s.inputs.take (n + 1) = List.replicate (n + 1) p) :
    s.portInput = p ∧ s.inputs.tail.take n = List.replicate n p := by
  cases hin : s.inputs with
  | nil => simp [hin, List.replicate_succ] at h
  | cons q later =>
    rw [hin, List.take_succ_cons, List.replicate_succ, List.cons.injEq] at h
    obtain ⟨rfl, hlater⟩ := h
    exact ⟨by rw [State.portInput, hin, List.headD_cons], hlater⟩

theorem runTicks_zeroBytes (n : Nat) {s : State} (hs : s.Inv)
    (hin : s.inputs.take n = List.replicate n ⟨false, some 0x00#8⟩) :
    ∃ t, runTicks n s = .next t ∧ zeroBytesToIdle t ≤ zeroBytesToIdle s - n := by
  induction n generalizing s with
  | zero => exact ⟨s, rfl, Nat.le_refl _⟩
  | succ n ih =>
    obtain ⟨hport, hlater⟩ := portInput_of_take hin
    obtain ⟨u, hu⟩ := step_total hs
    obtain ⟨t, ht, hle⟩ := ih (stepKeepsInvariant s u hs hu) (by rw [step_inputs hu, hlater])
    have hnext := zeroBytesToIdle_step hs hport hu
    exact ⟨t, by rw [runTicks_succ hu, ht], by omega⟩

/-- Settles O29: the bound is at most 1028 in a legal state, each zero byte lowers it by one, and at 0 the receiver is in
R_IDLE. -/
theorem zeroBytesResynchronise : Obligations.ZeroBytesResynchronise := by
  intro s hs hin
  obtain ⟨t, ht, hle⟩ := runTicks_zeroBytes 1030 hs hin
  obtain ⟨-, -, -, hrecv, -⟩ := hs
  have hbound := zeroBytesToIdle_le hrecv
  exact ⟨t, ht, (zeroBytesToIdle_eq_zero_iff t).1 (by omega)⟩

end Sys2Proof.Machine
end

section
/-! SUPPORT. The statements of 41_commands.md: what each operation answers, what it writes, and that it writes
nothing else. -/

namespace Sys2Proof.Machine

/-! ## Responses (R87, R125) -/

/-- A response without a payload: the length bytes are 0x00, so the checksum is that of magic and status. -/
theorem responsePacket_nil (st : Status) :
    responsePacket st [] = [0xBB#8, st.code, 0x00#8, 0x00#8, 0xBB#8 ^^^ st.code] := by
  cases st with
  | ok => rfl
  | invalidMagic => rfl
  | invalidChecksum => rfl
  | invalidCmd => rfl
  | invalidLength => rfl
  | error => rfl

/-- A response is its bytes up to the checksum, then their checksum. -/
theorem responsePacket_eq_of_body {st : Status} {payload body : List Byte}
    (h : body = [0xBB#8, st.code] ++ bytesLE16 (BitVec.ofNat 16 payload.length) ++ payload) :
    responsePacket st payload = body ++ [xorsum body] := by
  subst h; rfl

theorem statusPayload_length (s : State) : (statusPayload s).length = 9 := rfl

theorem timingPayload_length (s : State) : (timingPayload s).length = 6 := rfl

/-- An operation that only responds writes no state (R125). -/
theorem exec_respond_frame {i : Instr} {s : State} {st : Status} {payload : List Byte}
    (h : exec i s = .next (s.respond st payload)) :
    ∃ t, exec i s = .next t ∧ t.resp = some (responsePacket st payload) ∧ { t with resp := s.resp } = s ∧
      BytesUnchanged s t :=
  ⟨_, h, rfl, rfl, fun _ => ⟨rfl, rfl, rfl⟩⟩

/-- An operation that ends in `raise` answers the error and writes no state (R14). -/
theorem exec_raise_frame {i : Instr} {s : State} {st : Status} (h : exec i s = .next (s.raise st)) :
    ∃ t, exec i s = .next t ∧ t.resp = some [0xBB#8, st.code, 0x00#8, 0x00#8, 0xBB#8 ^^^ st.code] ∧
      { t with resp := s.resp } = s ∧ BytesUnchanged s t :=
  responsePacket_nil st ▸ exec_respond_frame h

/-! ## SET_CHANNELS and BLACKOUT (R135, R137) -/

/-- Inside the run, a run of writes leaves the value of that place. -/
theorem get_setRun_inside {m : Memory} (hm : Memory.wf m = true) (a : Nat) {values : List Byte} {k : Nat}
    (hk : k < values.length) : Memory.get (Memory.setRun m a values) (a + k) = values.getD k 0x00#8 := by
  rw [get_setRun hm, if_pos (Nat.le_add_right a k), Nat.add_sub_cancel_left, List.getD_eq_getElem?_getD,
    List.getElem?_eq_getElem hk, Option.getD_some, Option.getD_some]

/-- Below and above the run, a run of writes leaves what was there. -/
theorem get_setRun_outside {m : Memory} (hm : Memory.wf m = true) {a b : Nat} {values : List Byte}
    (hb : b < a ∨ a + values.length ≤ b) : Memory.get (Memory.setRun m a values) b = Memory.get m b := by
  rw [get_setRun hm]
  split_ifs with hle
  · rw [List.getElem?_eq_none (by omega), Option.getD_none]
  · rfl

/-- Zeroing the first `n` indices. -/
theorem get_setRun_zeros {m : Memory} (hm : Memory.wf m = true) {n a : Nat} (ha : a < n) :
    Memory.get (Memory.setRun m 0 (List.replicate n 0x00#8)) a = 0x00#8 := by
  have hread := get_setRun_inside hm 0 (values := List.replicate n 0x00#8) (by rwa [List.length_replicate])
  rwa [Nat.zero_add, List.getD_replicate _ ha] at hread

/-- Settles O13: SET_CHANNELS in range is one run of writes to UNIV, read back inside and outside the run. -/
theorem setChannelsWritesItsRun : Obligations.SetChannelsWritesItsRun := by
  intro s start values ⟨_, ⟨⟨huniv, _⟩, _⟩, _⟩ hfits
  exact ⟨_, exec_setChannels_inRange s ((runInRange_iff start values).2 hfits),
    fun _ hk => get_setRun_inside huniv _ hk, fun _ ha => get_setRun_outside huniv ha,
    congrArg some (responsePacket_nil .ok), rfl, fun _ => ⟨rfl, rfl⟩⟩

/-- Settles O14: the length is tested first, then the range, and both errors come before any write. -/
theorem setChannelsRejectedWhole : Obligations.SetChannelsRejectedWhole := by
  refine ⟨fun s p => exec_raise_frame (st := .invalidLength) rfl, fun s start values hpast => ?_⟩
  have hrange : ¬runInRange start values = true := by rw [runInRange_iff]; omega
  exact exec_raise_frame (exec_setChannels_outOfRange s hrange)

/-- Settles O15: BLACKOUT is the run of 512 zero bytes from channel 0. -/
theorem blackoutZeroesUniverse : Obligations.BlackoutZeroesUniverse := by
  intro s p ⟨_, ⟨⟨huniv, _⟩, _⟩, _⟩
  have hzero : ∀ a, a < Config.universeSize → _ := fun _ => get_setRun_zeros huniv
  -- The run's result gets a name, so that no step below computes the 512 writes.
  generalize hm : Memory.setRun s.univ 0 (List.replicate Config.universeSize 0x00#8) = m at hzero
  exact ⟨_, exec_blackout p hm, hzero, congrArg some (responsePacket_nil .ok), rfl, fun _ => ⟨rfl, rfl⟩⟩

/-! ## SET_TIMING and GET_TIMING (R141, R142) -/

/-- Settles O16: fields that pass the range tests are applied as delta updates, all three at once. -/
theorem setTimingAppliesDeltas : Obligations.SetTimingAppliesDeltas := by
  intro s r b m hr hb hm
  exact ⟨_, exec_setTiming_legal s ((timingOk_iff r b m).2 ⟨hr, hb, hm⟩), rfl, rfl, rfl,
    congrArg some (responsePacket_nil .ok), rfl, fun _ => ⟨rfl, rfl, rfl⟩⟩

/-- Settles O17: a field out of range fails the range tests, which come before any of the three writes. -/
theorem setTimingRejectedWhole : Obligations.SetTimingRejectedWhole := by
  refine ⟨fun s p => exec_raise_frame (st := .invalidLength) rfl, fun s r b m hbad => ?_⟩
  have hillegal : ¬timingOk r b m = true := by
    simp only [timingOk_iff, not_and_or, not_or, not_le]
    exact hbad
  exact exec_raise_frame (exec_setTiming_illegal s hillegal)

/-- Settles O12: the response carries the three registers, low byte first. -/
theorem getTimingReports : Obligations.GetTimingReports := by
  intro s p
  obtain ⟨t, ht, hresp, hframe⟩ := exec_respond_frame (i := .getTiming p) (s := s) (payload := timingPayload s) rfl
  refine ⟨t, _, ht, rfl, hresp.trans (congrArg some (responsePacket_eq_of_body ?_)), hframe⟩
  rw [timingPayload_length]; rfl

/-! ## ENABLE, DISABLE and GET_STATUS (R133, R134, R136) -/

/-- Settles O9: the five registers R133 lists, put back, give the state before. -/
theorem enableStartsCountersOver : Obligations.EnableStartsCountersOver := fun _ _ =>
  ⟨_, rfl, rfl, rfl, rfl, rfl, rfl, congrArg some (responsePacket_nil .ok), rfl, fun _ => ⟨rfl, rfl, rfl⟩⟩

/-- Settles O10: ENABLED, put back, gives the state before. -/
theorem disableClearsEnabledOnly : Obligations.DisableClearsEnabledOnly := fun _ _ =>
  ⟨_, rfl, rfl, congrArg some (responsePacket_nil .ok), rfl, fun _ => ⟨rfl, rfl, rfl⟩⟩

/-- Settles O11: the response carries ENABLED as a byte and the two counters, low byte first. -/
theorem getStatusReports : Obligations.GetStatusReports := by
  intro s p
  obtain ⟨t, ht, hresp, hframe⟩ := exec_respond_frame (i := .getStatus p) (s := s) (payload := statusPayload s) rfl
  refine ⟨t, _, ht, rfl, hresp.trans (congrArg some (responsePacket_eq_of_body ?_)), hframe⟩
  rw [statusPayload_length]; rfl

/-! ## SYSTEM_RESET and the reserved codes (R132, R139) -/

/-- Settles O18: the right guard's whole effect in this tick is PENDING_RST and the response. -/
theorem systemResetSetsPending : Obligations.SystemResetSetsPending := fun _ hopt =>
  ⟨_, exec_systemReset_guard hopt, rfl, congrArg some (responsePacket_nil .ok), rfl, fun _ => ⟨rfl, rfl, rfl⟩⟩

/-- Settles O19: the length is tested before the guard (R199), and both errors come before the write of PENDING_RST. -/
theorem systemResetRejected : Obligations.SystemResetRejected :=
  ⟨fun _ p hopt => exec_raise_frame (exec_systemReset_badLength p hopt),
    fun _ _ hopt hm => exec_raise_frame (exec_systemReset_wrongGuard hopt hm)⟩

/-- The codes without an operation in this block: the reserved ones, and 0x08 without the option (R99, log 10). -/
theorem exec_decodeOp_invalidCmd {s : State} {c : Byte} (p : List Byte)
    (h : reservedCode c = true ∨ c = 0x08#8 ∧ s.params.hasSystemReset = false) :
    exec (decodeOp c p) s = .next (s.raise .invalidCmd) := by
  rcases h with hc | ⟨rfl, hopt⟩
  · rw [Laws.CodeAndPayload.decodeOp_reserved hc]; rfl
  · exact exec_systemReset_absent (guardOperand p) hopt

/-- Settles O20: every code has a next state, and one without an operation raises INVALID_CMD. -/
theorem reservedCodeAnswersInvalidCmd : Obligations.ReservedCodeAnswersInvalidCmd := by
  refine ⟨fun s c p => ?_, fun s c p => exec_raise_frame (st := .invalidCmd) rfl⟩
  by_cases hc : reservedCode c = true ∨ c = 0x08#8 ∧ s.params.hasSystemReset = false
  · obtain ⟨t, ht, hanswer⟩ := exec_raise_frame (exec_decodeOp_invalidCmd p hc)
    exact ⟨t, ht, fun _ => hanswer⟩
  · obtain ⟨t, ht, -⟩ := exec_total (decodeOp c p) s
    exact ⟨t, ht, fun h => absurd h hc⟩

/-- A tick with RST or PENDING_RST is a reset tick (R216). -/
theorem step_of_resetNow {s : State} (h : s.resetNow = true) : step s = .next s.beginTick.applyReset := by
  rw [step, tick, if_pos h]

/-- A tick that accepts SYSTEM_RESET ends with OK on the response port and PENDING_RST set: phases 2 and 3 and the
receiver's return write neither. -/
theorem step_of_accepted_systemReset {s t : State} (h : step s = .next t) (hr : s.resetNow = false)
    (hopt : s.params.hasSystemReset = true)
    (hd : dispatched s = some (.systemReset (.guard s.params.resetMagic))) :
    t.resp = some (responsePacket .ok []) ∧ t.pendingRst = true := by
  obtain ⟨u, hu, rfl⟩ := step_of_no_reset h hr
  obtain ⟨b, v, -, hv, rfl⟩ := commandPort_of_dispatched hd hu
  have hguard := exec_systemReset_guard (s := s.beginTick.storeRx b) hopt
  obtain rfl := Host.Outcome.next.inj (hv.symm.trans hguard)
  simp

/-- Settles O34: PENDING_RST is set at the end of the accepting tick, and phase 0 of the next one tests it. -/
theorem acceptedSystemResetResetsNextTick : Obligations.AcceptedSystemResetResetsNextTick := by
  intro s t h hr hopt hd
  obtain ⟨hresp, hpending⟩ := step_of_accepted_systemReset h hr hopt hd
  have hreset : t.resetNow = true := by rw [State.resetNow, hpending, Bool.or_true]
  exact ⟨hresp.trans (congrArg some (responsePacket_nil .ok)), step_of_resetNow hreset⟩

end Sys2Proof.Machine
end

section
/-! SUPPORT. The sequencer's operations (42_sequencer.md): the start condition, the data push and the completion of a
frame. -/

namespace Sys2Proof.Machine

/-! ## The start condition (R155, 43_serializer.md R181) -/

theorem drained_iff (s : State) : drained s = true ↔ s.fifo = [] ∧ s.shActive = false := by
  rw [drained, Bool.and_eq_true, List.isEmpty_iff, Bool.not_eq_true']

/-- `start_ok` on a clock that has not passed LAST_START (log 5). -/
theorem startOk_iff {s : State} (hclock : s.lastStart.toNat ≤ s.nowUs.toNat) :
    startOk s = true ↔ s.enabled = true ∧ s.fifo = [] ∧ s.shActive = false ∧
      (s.lastStartValid = false ∨ 1000000 / s.refreshHz.toNat ≤ s.nowUs.toNat - s.lastStart.toNat) := by
  simp only [startOk, intervalUs, elapsed_of_le hclock, Bool.and_eq_true, Bool.or_eq_true, Bool.not_eq_true',
    decide_eq_true_eq, drained_iff, and_assoc]

theorem sequencerStep_of_startOk {s : State} (he : s.estate = .idle) (h : startOk s = true) :
    sequencerStep s = frameStart s := by
  simp only [sequencerStep, he, if_pos h]

theorem sequencerStep_of_not_startOk {s : State} (he : s.estate = .idle) (h : ¬startOk s = true) :
    sequencerStep s = s := by
  simp only [sequencerStep, he, if_neg h]

/-- Settles O35: the start condition decides between the frame start and no change. -/
theorem idleStartsFrameExactlyWhenAllowed : Obligations.IdleStartsFrameExactlyWhenAllowed := by
  intro s _ hclock he
  rw [← startOk_iff hclock.1]
  exact ⟨fun h => ⟨_, sequencerStep_of_startOk he h, rfl, rfl, rfl, rfl, rfl, rfl, rfl⟩,
    fun h => sequencerStep_of_not_startOk he h⟩

/-! ## The completion of a frame (R160 to R163) -/

/-- A completion that takes the rate's sample, 1000 ms or more into the window. -/
theorem frameComplete_of_sample {s : State} (h : 1000 ≤ elapsed s.nowUs s.winStart / 1000) :
    frameComplete s =
      { s with
        frameCount := s.frameCount + 1, lastComplete := s.nowUs,
        fpsX100 := BitVec.ofNat 32 ((s.winFrames + 1).toNat * 100000 / (elapsed s.nowUs s.winStart / 1000)),
        winFrames := 0, winStart := s.nowUs,
        errorCount := if s.underrun then s.errorCount + 1 else s.errorCount, underrun := false, estate := .idle } := by
  simp only [frameComplete, frameEnd, fpsSample, if_pos h]

/-- A completion inside the window. -/
theorem frameComplete_of_no_sample {s : State} (h : elapsed s.nowUs s.winStart / 1000 < 1000) :
    frameComplete s =
      { s with
        frameCount := s.frameCount + 1, lastComplete := s.nowUs, winFrames := s.winFrames + 1,
        errorCount := if s.underrun then s.errorCount + 1 else s.errorCount, underrun := false, estate := .idle } := by
  simp only [frameComplete, frameEnd, fpsSample, if_neg (Nat.not_le.2 h)]

theorem frameComplete_errorCount (s : State) :
    (frameComplete s).errorCount = if s.underrun then s.errorCount + 1 else s.errorCount := by
  simp only [frameComplete, frameEnd, fpsSample]
  split_ifs <;> rfl

theorem frameComplete_lastComplete (s : State) : (frameComplete s).lastComplete = s.nowUs := by
  simp only [frameComplete, frameEnd, fpsSample]
  split_ifs <;> rfl

theorem frameComplete_estate (s : State) : (frameComplete s).estate = .idle :=
  congrArg FrameView.estate (frameComplete_frameView s)

theorem frameComplete_cursor (s : State) : (frameComplete s).cursor = s.cursor :=
  congrArg FrameView.cursor (frameComplete_frameView s)

/-- What a completion on the state `x` makes of the counters of `c`, where both have the same counters and clock: `c` is
the state that a data push, which writes neither, has started from. -/
theorem frameComplete_counts {c x : State} {ms : Nat} (hclock : c.winStart.toNat ≤ c.nowUs.toNat)
    (hcount : x.counters = c.counters) (hnow : x.nowUs = c.nowUs)
    (hms : ms = (c.nowUs.toNat - c.winStart.toNat) / 1000) :
    (frameComplete x).frameCount = c.frameCount + 1 ∧
    (1000 ≤ ms → (frameComplete x).fpsX100.toNat = (c.winFrames + 1).toNat * 100000 / ms % 2 ^ 32 ∧
      (frameComplete x).winFrames = 0 ∧ (frameComplete x).winStart = c.nowUs) ∧
    (ms < 1000 → (frameComplete x).fpsX100 = c.fpsX100 ∧ (frameComplete x).winFrames = c.winFrames + 1 ∧
      (frameComplete x).winStart = c.winStart) := by
  simp only [State.counters, Prod.mk.injEq] at hcount
  obtain ⟨hfc, hfps, -, hwf, hws, -⟩ := hcount
  have helapsed : elapsed x.nowUs x.winStart / 1000 = ms := by rw [hnow, hws, elapsed_of_le hclock, hms]
  rcases Nat.lt_or_ge ms 1000 with hlt | hge
  · rw [frameComplete_of_no_sample (helapsed ▸ hlt)]
    exact ⟨congrArg (· + 1) hfc, fun h => absurd h (Nat.not_le.2 hlt), fun _ => ⟨hfps, congrArg (· + 1) hwf, hws⟩⟩
  · rw [frameComplete_of_sample (helapsed ▸ hge)]
    refine ⟨congrArg (· + 1) hfc, fun _ => ⟨?_, rfl, hnow⟩, fun h => absurd h (Nat.not_lt.2 hge)⟩
    simp only [helapsed, hwf, BitVec.toNat_ofNat]

/-- Nothing but the counters, the sample window, UNDERRUN and ESTATE changes. -/
theorem frameComplete_frame (s : State) :
    { frameComplete s with
      frameCount := s.frameCount, winFrames := s.winFrames, lastComplete := s.lastComplete,
      fpsX100 := s.fpsX100, winStart := s.winStart, errorCount := s.errorCount, underrun := s.underrun,
      estate := s.estate } = s := by
  rcases Nat.lt_or_ge (elapsed s.nowUs s.winStart / 1000) 1000 with h | h
  · rw [frameComplete_of_no_sample h]
  · rw [frameComplete_of_sample h]

/-- Settles O43: the counts on the state itself, and the errors from the flag. -/
theorem frameCompletionCounts : Obligations.FrameCompletionCounts := by
  intro s hclock
  obtain ⟨hfc, hsample, hkeep⟩ := frameComplete_counts hclock.2 rfl rfl rfl
  have herr := frameComplete_errorCount s
  exact ⟨_, _, rfl, rfl, hfc, frameComplete_lastComplete s, frameComplete_estate s, hsample, hkeep,
    fun h => by rw [herr, if_pos h], fun h => by rw [herr, h]; rfl, frameComplete_underrun s, frameComplete_frame s⟩

/-! ## The data push (R159) -/

/-- What a data push leaves before it tests for the frame's end. -/
def pushed (entry : Bool) (s : State) : State :=
  { s with
    underrun := underrunAfter entry s,
    cursor := (fillFifo s.frame s.params.depth Config.frameLen s.cursor s.fifo).1,
    fifo := (fillFifo s.frame s.params.depth Config.frameLen s.cursor s.fifo).2 }

theorem dataPush_of_cursor_ne {entry : Bool} {s : State} (h : (pushed entry s).cursor.toNat ≠ Config.frameLen) :
    dataPush entry s = pushed entry s :=
  if_neg h

theorem dataPush_of_cursor_eq {entry : Bool} {s : State} (h : (pushed entry s).cursor.toNat = Config.frameLen) :
    dataPush entry s = frameComplete (pushed entry s) :=
  if_pos h

theorem pushed_cursor (entry : Bool) {s : State} (hc : s.cursor.toNat ≤ Config.frameLen) :
    (pushed entry s).cursor.toNat =
      s.cursor.toNat + min (Config.frameLen - s.cursor.toNat) (s.params.depth - s.fifo.length) :=
  fillFifo_cursor s.frame s.params.depth s.cursor s.fifo hc

theorem pushed_fifo (entry : Bool) (s : State) :
    (pushed entry s).fifo = s.fifo ++ Memory.slice s.frame s.cursor.toNat
      (min (Config.frameLen - s.cursor.toNat) (s.params.depth - s.fifo.length)) :=
  congrArg Prod.snd (fillFifo_eq s.frame s.params.depth Config.frameLen s.cursor s.fifo (Nat.sub_le _ _))

theorem underrunAfter_iff (entry : Bool) (s : State) :
    underrunAfter entry s = true ↔
      s.underrun = true ∨ entry = false ∧ s.fifo = [] ∧ s.shActive = false := by
  rw [underrunAfter, Bool.or_eq_true, Bool.and_eq_true, Bool.not_eq_true', drained_iff]

/-- Settles O42: the state before the test for the frame's end is the fill in closed form with the flag set. -/
theorem dataPushFillsTheQueue : Obligations.DataPushFillsTheQueue := by
  intro s entry hcur hroom
  have hcursor := pushed_cursor entry hcur
  refine ⟨_, pushed entry s, rfl, hcursor, pushed_fifo entry s, ?_, underrunAfter_iff entry s, rfl, fun hlt => ?_,
    fun hend => ?_⟩
  · rw [pushed_fifo, List.length_append, slice_length]; omega
  · exact dataPush_of_cursor_ne (hcursor ▸ hlt.ne)
  · exact dataPush_of_cursor_eq (hcursor.trans hend)

/-! ## ERROR_COUNT (R163) -/

/-- A push that finds the line fed, or that is the entry tick's, counts no error, whether or not it ends the frame. -/
theorem dataPush_errorCount {entry : Bool} {s : State} (h : underrunAfter entry s = false) :
    (dataPush entry s).errorCount = s.errorCount := by
  by_cases hend : (pushed entry s).cursor.toNat = Config.frameLen
  · have hflag : (pushed entry s).underrun = false := h
    rw [dataPush_of_cursor_eq hend, frameComplete_errorCount, hflag]
    rfl
  · rw [dataPush_of_cursor_ne hend]
    rfl

/-- The sequencer of a legal state counts no error: in DATA the line is never dry. -/
theorem sequencerStep_errorCount {s : State} (hs : EngineLegal s) : (sequencerStep s).errorCount = s.errorCount := by
  obtain ⟨-, -, -, hdata, -, hunder, -⟩ := hs
  cases he : s.estate with
  | idle => simp only [sequencerStep, he]; split_ifs <;> rfl
  | brk => simp only [sequencerStep, he]; split_ifs <;> rfl
  | mab =>
    simp only [sequencerStep, he]
    split_ifs
    · rfl
    · exact dataPush_errorCount (by simp [underrunAfter, hunder])
  | data =>
    obtain ⟨-, hfed⟩ := hdata he
    simp only [sequencerStep, he]
    exact dataPush_errorCount (by simp [underrunAfter, hunder, hfed])

end Sys2Proof.Machine
end

section
/-! SUPPORT. The sequencer in a whole tick: what phase 1 cannot reach of a frame in flight, where a frame starts, and
where one ends (42_sequencer.md R155 to R169). -/

namespace Sys2Proof.Machine

/-! ## A frame in flight (R165 to R167) -/

/-- Phase 1 of a tick leaves the frame in flight, the clock and LAST_START. -/
theorem phase1_keeps {s u : State} (h : commandPort s.portInput.rx s.beginTick = .next u) :
    u.frameView = s.frameView ∧ u.nowUs = s.nowUs ∧ u.lastStart = s.lastStart ∧
      u.lastStartValid = s.lastStartValid := by
  obtain ⟨hview, -, hnow, -, hlast, hvalid⟩ := commandPort_frameView h
  exact ⟨hview, hnow, hlast, hvalid⟩

/-- Outside IDLE phases 2 and 3, and the line, are functions of the view. -/
theorem finishTick_frameView {s s' : State} (h : s.frameView = s'.frameView) (hi : s.estate ≠ .idle) :
    s.finishTick.frameView = s'.finishTick.frameView ∧ s.finishTick.line = s'.finishTick.line :=
  serializerStep_frameView (sequencerStep_frameView h hi)

/-- Settles O41: phase 1 leaves the view of both blocks, and phases 2 and 3 read nothing else. -/
theorem frameInFlightIgnoresTheHost : Obligations.FrameInFlightIgnoresTheHost := by
  intro s s' t t' hview hi hr hr' h h'
  obtain ⟨u, hu, rfl⟩ := step_of_no_reset h hr
  obtain ⟨u', hu', rfl⟩ := step_of_no_reset h' hr'
  obtain ⟨hkeep, -⟩ := phase1_keeps hu
  obtain ⟨hkeep', -⟩ := phase1_keeps hu'
  have hestate : u.estate = s.estate := congrArg FrameView.estate hkeep
  exact finishTick_frameView (hkeep.trans (hview.trans hkeep'.symm)) (hestate ▸ hi)

/-! ## No underrun (R163, 43_serializer.md R186) -/

/-- Settles O44: the invariant, kept by phase 1, has a fed line in DATA, and only an underrun counts an error. -/
theorem noFrameUnderruns : Obligations.NoFrameUnderruns := by
  intro s t hs h hr
  obtain ⟨-, -, ⟨-, -, -, -, -, hunder, -⟩, -⟩ := stepKeepsInvariant s t hs h
  refine ⟨?_, hunder⟩
  obtain ⟨u, hu, rfl⟩ := step_of_no_reset h hr
  obtain ⟨-, -, hengine, -⟩ := commandPort_inv hs hr hu
  obtain ⟨herr, -⟩ := commandPort_errorCount_lastComplete hu
  rw [finishTick_errorCount, sequencerStep_errorCount hengine, herr, beginTick_errorCount]

/-! ## The start of a frame (R155 to R157) -/

/-- The state after the tick of a frame start is the start on phase 1's state, with the line at space. -/
theorem startsFrame_eq {s t : State} (h : startsFrame s t) :
    s.resetNow = false ∧ ∃ u, commandPort s.portInput.rx s.beginTick = .next u ∧ startOk u = true ∧
      t = State.endTick { frameStart u with line := false } := by
  obtain ⟨hidle, hstep, hbrk⟩ := h
  rcases step_cases hstep with ⟨-, rfl⟩ | ⟨hr, u, hu, rfl⟩
  · cases hbrk
  · obtain ⟨hkeep, -⟩ := phase1_keeps hu
    have hidle' : u.estate = .idle := (congrArg FrameView.estate hkeep).trans hidle
    by_cases hok : startOk u = true
    · exact ⟨hr, u, hu, hok, by rw [State.finishTick, sequencerStep_of_startOk hidle' hok]; rfl⟩
    · rw [finishTick_estate, sequencerStep_of_not_startOk hidle' hok, hidle'] at hbrk
      cases hbrk

/-- Outside IDLE the sequencer does not write FRAME. -/
theorem sequencerStep_frame_of_ne_idle {s : State} (h : s.estate ≠ .idle) : (sequencerStep s).frame = s.frame := by
  cases he : s.estate with
  | idle => exact absurd he h
  | brk => simp only [sequencerStep, he]; split_ifs <;> rfl
  | mab =>
    simp only [sequencerStep, he]
    split_ifs
    · rfl
    · exact dataPush_frame _ _
  | data => simp only [sequencerStep, he]; exact dataPush_frame _ _

/-- FRAME is written by a frame start only. -/
theorem sequencerStep_frame_of_no_start {s : State} (h : s.estate = .idle → (sequencerStep s).estate ≠ .brk) :
    (sequencerStep s).frame = s.frame := by
  by_cases hidle : s.estate = .idle
  · by_cases hok : startOk s = true
    · have hbrk : (sequencerStep s).estate = .brk := by rw [sequencerStep_of_startOk hidle hok, frameStart_estate]
      exact absurd hbrk (h hidle)
    · rw [sequencerStep_of_not_startOk hidle hok]
  · exact sequencerStep_frame_of_ne_idle hidle

/-- Settles O36: a start writes the snapshot of the universe that phase 1 left, and no other tick writes FRAME. -/
theorem snapshotTakenAtFrameStartOnly : Obligations.SnapshotTakenAtFrameStartOnly := by
  constructor
  · intro s t hs h
    obtain ⟨hr, u, hu, -, rfl⟩ := startsFrame_eq h
    obtain ⟨-, ⟨⟨huniv, -⟩, -⟩, -⟩ := commandPort_inv hs hr hu
    obtain ⟨-, hnow, -⟩ := phase1_keeps hu
    exact ⟨get_snapshot huniv 0 (by decide), fun k hk => get_snapshot huniv (k + 1) (Nat.succ_lt_succ hk), rfl, rfl,
      rfl, hnow⟩
  · intro s t hstep hr h a
    obtain ⟨u, hu, rfl⟩ := step_of_no_reset hstep hr
    obtain ⟨hkeep, -⟩ := phase1_keeps hu
    have hestate : u.estate = s.estate := congrArg FrameView.estate hkeep
    have hframe : u.frame = s.frame := congrArg FrameView.frame hkeep
    have hno : u.estate = .idle → (sequencerStep u).estate ≠ .brk := fun hidle hbrk =>
      h ⟨hestate ▸ hidle, hstep, (finishTick_estate u).trans hbrk⟩
    rw [finishTick_frame, sequencerStep_frame_of_no_start hno, hframe]

/-- Settles O37: the start condition held in the state that phase 1 left. -/
theorem frameStartsAreSpaced : Obligations.FrameStartsAreSpaced := by
  intro s t hclock h
  obtain ⟨-, u, hu, hok, rfl⟩ := startsFrame_eq h
  obtain ⟨hkeep, hnow, hlast, hvalid⟩ := phase1_keeps hu
  rw [startOk_iff (by rw [hlast, hnow]; exact hclock.1), hlast, hnow, hvalid] at hok
  obtain ⟨hen, hfifo, hactive, hint⟩ := hok
  refine ⟨hen, (congrArg FrameView.fifo hkeep).symm.trans hfifo, (congrArg FrameView.shActive hkeep).symm.trans hactive,
    fun hv => ?_⟩
  show 1000000 / u.refreshHz.toNat ≤ u.nowUs.toNat - s.lastStart.toNat
  rw [hnow]
  exact hint.resolve_left (by simp [hv])

/-! ## The end of a frame (R160, R161) -/

/-- A tick that takes the sequencer from MAB or DATA to IDLE completes the frame, on a state with the cursor at its end
and the counters and the clock as phase 1 left them. -/
theorem sequencerStep_of_completes {s : State} (hfrom : s.estate = .mab ∨ s.estate = .data)
    (hto : (sequencerStep s).estate = .idle) :
    ∃ x : State, sequencerStep s = frameComplete x ∧ x.cursor.toNat = 513 ∧ x.counters = s.counters ∧
      x.nowUs = s.nowUs := by
  rcases sequencerStep_cases s with ⟨-, hcomplete⟩ | ⟨hstay, -⟩
  · exact hcomplete
  · exact absurd hto (hstay hfrom)

/-- Settles O57: the completion counts on the counters as they were before the tick, or as ENABLE has cleared them. -/
theorem completedFrameIsCounted : Obligations.CompletedFrameIsCounted := by
  intro s t hs hclock hstep hr hfrom hto
  have hunder := (noFrameUnderruns s t hs hstep hr).2
  obtain ⟨u, hu, rfl⟩ := step_of_no_reset hstep hr
  obtain ⟨hkeep, hnow, -⟩ := phase1_keeps hu
  have hestate : u.estate = s.estate := congrArg FrameView.estate hkeep
  rw [finishTick_estate] at hto
  obtain ⟨x, hx, hcursor, hcount, hnow'⟩ := sequencerStep_of_completes (hestate ▸ hfrom) hto
  simp only [finishTick_lastComplete, finishTick_cursor, finishTick_frameCount, finishTick_fpsX100,
    finishTick_winFrames, finishTick_winStart, hx]
  refine ⟨_, rfl, (frameComplete_lastComplete x).trans (hnow'.trans hnow),
    (congrArg BitVec.toNat (frameComplete_cursor x)).trans hcursor, hunder, fun hno => ?_, fun ⟨p, hd⟩ => ?_⟩
  · obtain ⟨hfc, hsample, hkeep⟩ := frameComplete_counts hclock.2 (hcount.trans (commandPort_counters hr hno hu))
      (hnow'.trans hnow) rfl
    exact ⟨hfc, hsample, hkeep⟩
  · have hclear := hcount.trans (commandPort_counters_of_enable hd hu)
    simp only [State.counters, Prod.mk.injEq] at hclear
    obtain ⟨hfc, hfps, -, hwf, hws, -⟩ := hclear
    have hwin : x.winStart = x.nowUs := hws.trans (hnow'.trans hnow).symm
    obtain ⟨hfc', -, hkeep'⟩ := frameComplete_counts (c := x) (ms := 0) (by rw [hwin]) rfl rfl (by simp [hwin])
    obtain ⟨hfps', hwf', hws'⟩ := hkeep' (by decide)
    rw [hfc', hfps', hwf', hws', hfc, hfps, hwf, hws]
    exact ⟨rfl, rfl, rfl, rfl⟩

end Sys2Proof.Machine
end

section
/-! SUPPORT. A frame over its ticks (42_sequencer.md R164): the run from its start, and the ticks at which it completes
and is drained. -/

namespace Sys2Proof.Machine

/-! ## The run of a frame -/

/-- The tick of the start is tick 0 of the frame (R156). -/
theorem frameAt_of_startsFrame {s u : State} (hs : s.Inv) (h : startsFrame s u) :
    FrameAt u.frame s.params u.latBreak u.latMab 0 u ∧ 1 ≤ u.latMab.toNat := by
  obtain ⟨hr, v, hv, hok, rfl⟩ := startsFrame_eq h
  obtain ⟨⟨-, ⟨hbreak, -⟩, hmab, -⟩, -⟩ := commandPort_inv hs hr hv
  have hbreak' : 0 < v.breakUs.toNat := lt_of_lt_of_le (by decide) hbreak
  have hparams : v.params = s.params := congrArg FrameView.params (phase1_keeps hv).1
  obtain ⟨hfifo, hactive⟩ := (drained_iff v).1 (drained_of_startOk hok)
  exact ⟨(if_pos hbreak').mpr ⟨⟨rfl, rfl, rfl⟩, hparams, rfl, rfl, hfifo, hactive⟩, le_trans (by decide) hmab⟩

/-- A tick that is no reset tick takes the frame to its next tick, whatever phase 1 does. -/
theorem frameAt_step {frame : Memory} {p : Params} {b m : Half} {n : Nat} {s t : State} (hm : 1 ≤ m.toNat)
    (h : FrameAt frame p b m n s) (hn : n + 1 < b.toNat + m.toNat + 513 * p.slotUs) (hr : s.resetNow = false)
    (hstep : step s = .next t) : FrameAt frame p b m (n + 1) t := by
  obtain ⟨u, hu, rfl⟩ := step_of_no_reset hstep hr
  obtain ⟨hview, hline, -⟩ := commandPort_frameView hu
  exact frameAt_next hm (frameAt_congr h hview hline) hn

theorem noResetFor_succ {n : Nat} {s t : State} (h : noResetFor (n + 1) s = true) (hstep : step s = .next t) :
    s.resetNow = false ∧ noResetFor n t = true := by
  simpa [noResetFor, hstep] using h

/-- A frame runs on, tick by tick, as long as no reset tick comes. -/
theorem runTicks_frameAt {frame : Memory} {p : Params} {b m : Half} (hm : 1 ≤ m.toNat) (n : Nat) {k : Nat} {s : State}
    (hs : s.Inv) (h : FrameAt frame p b m k s) (hr : noResetFor n s = true)
    (hn : k + n < b.toNat + m.toNat + 513 * p.slotUs) :
    ∃ t, runTicks n s = .next t ∧ FrameAt frame p b m (k + n) t := by
  induction n generalizing k s with
  | zero => exact ⟨s, runTicks_zero s, h⟩
  | succ n ih =>
    obtain ⟨u, hu⟩ := step_total hs
    obtain ⟨hr₀, hr'⟩ := noResetFor_succ hr hu
    rw [runTicks_succ hu, Nat.add_comm n, ← Nat.add_assoc]
    exact ih (stepKeepsInvariant s u hs hu) (frameAt_step hm h (by omega) hr₀ hu) hr' (by omega)

/-- The state `n` ticks after the tick of a frame's start, up to the frame's last. -/
theorem runTicks_of_startsFrame {s u : State} {n : Nat} (hs : s.Inv) (h : startsFrame s u)
    (hr : noResetFor (n + 1) s = true) (hn : n < u.latBreak.toNat + u.latMab.toNat + 513 * s.params.slotUs) :
    ∃ t, runTicks (n + 1) s = .next t ∧ FrameAt u.frame s.params u.latBreak u.latMab n t := by
  obtain ⟨hat, hm⟩ := frameAt_of_startsFrame hs h
  obtain ⟨-, hstep, -⟩ := h
  obtain ⟨-, hr'⟩ := noResetFor_succ hr hstep
  rw [runTicks_succ hstep]
  simpa using runTicks_frameAt hm n (stepKeepsInvariant s u hs hstep) hat hr' (by omega)

/-! ## The completion and the drained tick (R160, R164) -/

/-- A quotient rounded up. -/
theorem div_add_ite_le_iff {j n k : Nat} (hn : 0 < n) : j / n + (if j % n = 0 then 0 else 1) ≤ k ↔ j ≤ k * n := by
  split_ifs with hr
  · obtain ⟨q, rfl⟩ := Nat.dvd_of_mod_eq_zero hr
    rw [Nat.mul_div_cancel_left q hn, Nat.mul_comm k, Nat.add_zero, Nat.mul_le_mul_left_iff hn]
  · have hne : j ≠ k * n := by rintro rfl; exact hr (Nat.mul_mod_left k n)
    rw [Nat.succ_le_iff, Nat.div_lt_iff_lt_mul hn]
    omega

/-- The last of `k + 1` slots of `n` ticks is in its last tick. -/
theorem succ_eq_succ_mul_iff {j n k : Nat} (hn : 0 < n) :
    j + 1 = (k + 1) * n ↔ j / n = k ∧ j % n + 1 = n := by
  have hdiv : n * (j / n) + j % n = j := Nat.div_add_mod j n
  have hmul : (k + 1) * n = n * k + n := by rw [Nat.mul_comm, Nat.mul_succ]
  rw [hmul]
  constructor
  · intro hend
    have hq : j / n = k := Nat.div_eq_of_lt_le (by rw [Nat.mul_comm]; omega) (by rw [hmul]; omega)
    rw [hq] at hdiv
    exact ⟨hq, by omega⟩
  · rintro ⟨rfl, hend⟩
    omega

/-- The frame is in DATA as long as a byte is left to push: the FIFO takes its depth at once, then a byte a slot. -/
theorem dataPhase_estate_iff {frame : Memory} {p : Params} {j : Nat} {t : State} (h : DataPhase frame p j t) :
    t.estate = .data ↔ p.depth < 513 ∧ j < (512 - p.depth) * p.slotUs + 1 := by
  have hS := slotUs_ge p
  have hceil := div_add_ite_le_iff (j := j) (n := p.slotUs) (k := 512 - p.depth) (by omega)
  have hestate : t.estate = .data ↔ t.cursor.toNat < 513 := by
    rw [h.estate]
    split_ifs with hc <;> simp [hc]
  rw [hestate, h.cursor, Nat.add_assoc]
  generalize j / p.slotUs + _ = slots at hceil ⊢
  omega

/-- The line is drained in the last tick of the last slot, and in none before it. -/
theorem dataPhase_drained_iff {frame : Memory} {p : Params} {j : Nat} {t : State} (h : DataPhase frame p j t)
    (hj : j < 513 * p.slotUs) : drained t = true ↔ j + 1 = 513 * p.slotUs := by
  have hS := slotUs_ge p
  have hD := depth_pos p
  have hslot : j / p.slotUs < 513 := (Nat.div_lt_iff_lt_mul (by omega)).2 hj
  have hfifo : t.fifo = [] ↔ t.cursor.toNat ≤ j / p.slotUs + 1 := by
    rw [h.fifo, ← List.length_eq_zero_iff, slice_length, Nat.sub_eq_zero_iff_le]
  have hactive : t.shActive = false ↔ j % p.slotUs + 1 = p.slotUs := by
    rw [h.shActive, decide_eq_false_iff_not, not_not]
  rw [drained_iff, hfifo, hactive, succ_eq_succ_mul_iff (k := 512) (by omega), h.cursor]
  constructor
  · rintro ⟨hdry, hend⟩
    rw [if_neg (by omega)] at hdry
    omega
  · rintro ⟨hq, hend⟩
    omega

/-- Settles O39: without a reset tick the frame runs to its data ticks, where the cursor says whether it is complete,
and the FIFO and the shift register whether it is drained. -/
theorem frameCompletesAtItsTick : Obligations.FrameCompletesAtItsTick := by
  intro s u n hs h hr hdata hn
  obtain ⟨t, ht, hat⟩ := runTicks_of_startsFrame hs h hr hn
  rw [FrameAt, if_neg (by omega), if_neg (by omega)] at hat
  refine ⟨t, ht, ?_, ?_, ?_⟩
  · rw [dataPhase_estate_iff hat]
    omega
  · rw [hat.estate]
    split_ifs <;> simp
  · rw [dataPhase_drained_iff hat (by omega)]
    omega

end Sys2Proof.Machine
end

section
/-! SUPPORT. The frame serializer (43_serializer.md): the bits of a slot, the line's level in each state, a slot from its
load to its last tick, and a frame's line over its ticks. -/

namespace Sys2Proof.Machine

/-! ## The bits of a slot (R184) -/

theorem slotBit_start (b : Byte) : slotBit b 0 = false := rfl

theorem slotBit_data (b : Byte) {i : Nat} (hpos : 1 ≤ i) (hle : i ≤ 8) : slotBit b i = b.getLsbD (i - 1) := by
  rw [slotBit, if_neg (by omega), if_pos hle]

theorem slotBit_stop (b : Byte) {i : Nat} (h : 8 < i) : slotBit b i = true := by
  rw [slotBit, if_neg (by omega), if_neg (by omega)]

/-- Settles O45: the start bit, the data bits and the stop bits are the three cases of `slotBit`. -/
theorem slotBitLayout : Obligations.SlotBitLayout := by
  intro b i
  exact ⟨fun h => h ▸ slotBit_start b, slotBit_data b, slotBit_stop b⟩

/-! ## The line's level in each state (R183, R187) -/

theorem serializerStep_line_of_brk {s : State} (h : s.estate = .brk) : (serializerStep s).line = false := by
  simp only [serializerStep, h]

theorem serializerStep_line_of_mab {s : State} (h : s.estate = .mab) : (serializerStep s).line = true := by
  simp only [serializerStep, h]

/-- A drained line loads nothing and shifts nothing: it stays at mark. -/
theorem serializerStep_drained {s : State} (he : s.estate ≠ .brk ∧ s.estate ≠ .mab) (h : drained s = true) :
    serializerStep s = { s with line := true } := by
  obtain ⟨hfifo, hactive⟩ := (drained_iff s).1 h
  have hload : loadSlot s = s := by simp [loadSlot, hactive, hfifo]
  have hshift : shiftSlot s = { s with line := true } := by simp [shiftSlot, hactive]
  cases hs : s.estate with
  | idle => simp only [serializerStep, hs, hload, hshift]
  | brk => exact absurd hs he.1
  | mab => exact absurd hs he.2
  | data => simp only [serializerStep, hs, hload, hshift]

/-- A tick that stays in IDLE starts no frame, so its sequencer changes nothing. -/
theorem sequencerStep_eq_self_of_idle {s : State} (h : s.estate = .idle) (h' : (sequencerStep s).estate = .idle) :
    sequencerStep s = s := by
  refine sequencerStep_of_not_startOk h fun hok => ?_
  rw [sequencerStep_of_startOk h hok, frameStart_estate] at h'
  cases h'

theorem finishTick_line (s : State) : s.finishTick.line = (serializerStep (sequencerStep s)).line := rfl

/-- Settles O47: the serializer's level in the state that the sequencer leaves; in IDLE on a drained line, that state is
phase 1's, still drained. -/
theorem lineLevelFollowsState : Obligations.LineLevelFollowsState := by
  intro s t hstep hr
  obtain ⟨u, hu, rfl⟩ := step_of_no_reset hstep hr
  obtain ⟨hkeep, -⟩ := phase1_keeps hu
  rw [finishTick_estate, finishTick_line]
  refine ⟨serializerStep_line_of_brk, serializerStep_line_of_mab, fun hto hfrom hdrained => ?_⟩
  have hidle : u.estate = .idle := (congrArg FrameView.estate hkeep).trans hfrom
  have hdry : drained u = true := by
    rw [drained_iff] at hdrained ⊢
    exact ⟨(congrArg FrameView.fifo hkeep).trans hdrained.1, (congrArg FrameView.shActive hkeep).trans hdrained.2⟩
  rw [sequencerStep_eq_self_of_idle hidle hto, serializerStep_drained (by simp [hidle]) hdry]

/-! ## A slot, tick by tick (R182, R185) -/

/-- The state after tick `j` of a slot that the serializer, left to itself, loads in tick 0. -/
theorem serializerStep_iterate_slot {s : State} {b : Byte} {rest : List Byte} {j : Nat}
    (he : s.estate ≠ .brk ∧ s.estate ≠ .mab) (ha : s.shActive = false) (hf : s.fifo = b :: rest)
    (hj : j < s.params.slotUs) :
    serializerStep^[j + 1] s =
      { s with
        fifo := rest, shByte := b, line := slotBit b (j / s.params.bitUs.val), shTick := j + 1,
        shActive := j + 1 ≠ s.params.slotUs } := by
  induction j with
  | zero => rw [Function.iterate_one, serializerStep_load he ha hf, Nat.zero_div]
  | succ j ih =>
    rw [Function.iterate_succ_apply', ih (by omega)]
    exact serializerStep_active he (decide_eq_true hj.ne)

/-- Settles O46: the state after tick `j` of the slot, field by field. -/
theorem slotTakesSlotUsTicks : Obligations.SlotTakesSlotUsTicks := by
  intro s b rest j he ha hf hj
  have hserial : s.estate ≠ .brk ∧ s.estate ≠ .mab := by
    obtain he | he := he
    · simp [he]
    · simp [he]
  rw [serializerStep_iterate_slot hserial ha hf hj]
  exact ⟨rfl, rfl, by rw [decide_eq_false_iff_not, not_not]⟩

/-! ## A frame on the line (R188) -/

/-- Settles O38: the run of the frame up to its tick `n`, and what `FrameAt` says of the line in that tick. -/
theorem frameTimelineOnTheLine : Obligations.FrameTimelineOnTheLine := by
  intro s u n hs h hr hn
  obtain ⟨t, ht, hat⟩ := runTicks_of_startsFrame hs h hr hn
  refine ⟨t, ht, ?_⟩
  unfold FrameAt at hat
  split_ifs at hat ⊢
  · obtain ⟨⟨hbrk, -, hline⟩, -⟩ := hat
    exact ⟨hbrk, hline⟩
  · obtain ⟨⟨hmab, -, hline⟩, -⟩ := hat
    exact ⟨hmab, hline⟩
  · exact hat.line

end Sys2Proof.Machine
end

section
/-! SUPPORT. Exceptions (60_exceptions.md): none of them stops the block (R209). -/

namespace Sys2Proof.Machine

/-- Settles O50, by `step_total`: the only faults are the receiver's at an index outside RXBUF, and a legal receiver's
RXPOS and RXLEN keep within it (`receiverStep_row`); every operation answers a next state (`exec_total`). -/
theorem blockNeverStops : Obligations.BlockNeverStops := by
  intro s hs
  exact step_total hs

end Sys2Proof.Machine
end

section
/-! SUPPORT. Reset and the timing of consecutive frames (70_reset_and_hazards.md): the reset tick (R216), and the frame
period (R226). -/

namespace Sys2Proof.Machine

/-! ## The reset tick (R216) -/

/-- Settles O33: either cause passes phase 0's test, and a reset tick runs no other phase. -/
theorem resetTickResetsEverything : Obligations.ResetTickResetsEverything := by
  intro s h
  have hreset : s.resetNow = true := by rw [State.resetNow, Bool.or_eq_true]; exact h
  exact step_of_resetNow hreset

/-! ## Runs, and the sequencer in a tick that starts no frame -/

theorem runTicks_one {s t : State} (h : step s = .next t) : runTicks 1 s = .next t :=
  (runTicks_succ h).trans (runTicks_zero t)

/-- One tick more at the end of a run. -/
theorem runTicks_append_step {n : Nat} {s t v : State} (ht : runTicks n s = .next t) (hv : step t = .next v) :
    runTicks (n + 1) s = .next v := by
  induction n generalizing s with
  | zero =>
    obtain rfl : s = t := Host.Outcome.next.inj ht
    exact runTicks_one hv
  | succ n ih =>
    cases hs : Sys2Proof.core.step s with
    | next w =>
      have hstep : step s = .next w := hs
      rw [runTicks_succ hstep] at ht ⊢
      exact ih ht
    | fault r => simp [runTicks, Host.Core.run, hs] at ht
    | refused r => simp [runTicks, Host.Core.run, hs] at ht

theorem dataPush_lastStartValid (entry : Bool) (s : State) :
    (dataPush entry s).lastStartValid = s.lastStartValid := by
  rw [dataPush_eq_pushWrites]; rfl

@[simp] theorem finishTick_lastStartValid (s : State) :
    s.finishTick.lastStartValid = (sequencerStep s).lastStartValid := by
  rw [State.finishTick, serializerStep_eq_serWrites]; rfl

/-- A sequencer that starts no frame records none (R36, R156). -/
theorem sequencerStep_record_of_no_start {s : State} (h : ¬(s.estate = .idle ∧ startOk s = true)) :
    (sequencerStep s).lastStart = s.lastStart ∧ (sequencerStep s).lastStartValid = s.lastStartValid := by
  cases he : s.estate with
  | idle => rw [sequencerStep_of_not_startOk he fun hok => h ⟨he, hok⟩]; exact ⟨rfl, rfl⟩
  | brk => simp only [sequencerStep, he]; split_ifs <;> exact ⟨rfl, rfl⟩
  | mab =>
    simp only [sequencerStep, he]
    split_ifs
    · exact ⟨rfl, rfl⟩
    · exact ⟨dataPush_lastStart _ _, dataPush_lastStartValid _ _⟩
  | data => simp only [sequencerStep, he]; exact ⟨dataPush_lastStart _ _, dataPush_lastStartValid _ _⟩

/-- An idle, drained block that starts no frame stays idle and drained. -/
theorem finishTick_idle_drained {s : State} (he : s.estate = .idle) (hdry : drained s = true)
    (hno : ¬startOk s = true) : s.finishTick.estate = .idle ∧ drained s.finishTick = true := by
  rw [State.finishTick, sequencerStep_of_not_startOk he hno, serializerStep_drained (by simp [he]) hdry]
  exact ⟨he, hdry⟩

/-! ## Frame starts on idle ports -/

/-- A frame starts on idle ports exactly when the block is idle and the start condition holds before the tick. -/
theorem startsFrame_iff_of_quiet {s : State} (hi : s.inputs = []) (hp : s.pendingRst = false) :
    (∃ v, startsFrame s v) ↔ s.estate = .idle ∧ startOk s = true := by
  constructor
  · rintro ⟨v, hidle, hstep, hbrk⟩
    refine ⟨hidle, by_contra fun hno => ?_⟩
    obtain rfl := Host.Outcome.next.inj ((step_quiet hi hp).symm.trans hstep)
    rw [finishTick_estate, sequencerStep_of_not_startOk (s := s.beginTick) hidle hno, beginTick_estate, hidle] at hbrk
    cases hbrk
  · rintro ⟨hidle, hok⟩
    refine ⟨_, hidle, step_quiet hi hp, ?_⟩
    rw [finishTick_estate, sequencerStep_of_startOk (s := s.beginTick) hidle hok, frameStart_estate]

/-- The tick of a frame start on idle ports. -/
theorem startsFrame_eq_of_quiet {s u : State} (hi : s.inputs = []) (hp : s.pendingRst = false) (h : startsFrame s u) :
    u = State.endTick { frameStart s.beginTick with line := false } := by
  obtain ⟨hidle, hok⟩ := (startsFrame_iff_of_quiet hi hp).1 ⟨u, h⟩
  obtain ⟨-, hstep, -⟩ := h
  obtain rfl := Host.Outcome.next.inj ((step_quiet hi hp).symm.trans hstep)
  rw [State.finishTick, sequencerStep_of_startOk (s := s.beginTick) hidle hok]
  rfl

/-! ## The frame period (R226) -/

/-- The line time `F` of the frame that starts in the state (R226). -/
def frameUs (s : State) : Nat := s.breakUs.toNat + s.mabUs.toNat + 513 * s.params.slotUs

/-- The frame period `P = max(I, F)` (R226). -/
def periodUs (s : State) : Nat := max (intervalUs s) (frameUs s)

theorem frameUs_pos (s : State) : 0 < frameUs s := by
  have hS := slotUs_ge s.params
  rw [frameUs]
  omega

/-- What decides the next start, `n` ticks on idle ports after the tick `s` of a frame start. -/
structure SinceStart (s : State) (n : Nat) (t : State) : Prop where
  inputs : t.inputs = []
  pendingRst : t.pendingRst = false
  enabled : t.enabled = true
  refreshHz : t.refreshHz = s.refreshHz
  nowUs : t.nowUs.toNat = s.nowUs.toNat + n
  lastStart : t.lastStart = s.nowUs
  lastStartValid : t.lastStartValid = true
  idle_drained : t.estate = .idle ∧ drained t = true ↔ frameUs s ≤ n

/-- The next frame starts once the period is over: `F` drains the line, and `I` lets the interval pass. -/
theorem SinceStart.startsFrame_iff {s t : State} {n : Nat} (h : SinceStart s n t) :
    (∃ v, startsFrame t v) ↔ periodUs s ≤ n := by
  have hclock : t.lastStart.toNat ≤ t.nowUs.toNat := by rw [h.lastStart, h.nowUs]; omega
  have helapsed : t.nowUs.toNat - t.lastStart.toNat = n := by rw [h.lastStart, h.nowUs]; omega
  have hready := h.idle_drained
  rw [drained_iff] at hready
  rw [startsFrame_iff_of_quiet h.inputs h.pendingRst, startOk_iff hclock, helapsed, periodUs, max_le_iff, ← hready,
    h.refreshHz, ← intervalUs]
  simp only [h.enabled, h.lastStartValid, Bool.true_eq_false, true_and, false_or]
  tauto

section
variable {s u : State} (hs : s.Inv) (h : startsFrame s u) (hi : s.inputs = []) (hp : s.pendingRst = false)
include hs h hi hp

/-- Within the line time the block is idle and drained in the frame's last tick only (O38, O39). -/
theorem idle_drained_iff_of_startsFrame {n : Nat} {t : State} (hpos : 0 < n) (hn : n ≤ frameUs s)
    (ht : runTicks n s = .next t) : t.estate = .idle ∧ drained t = true ↔ frameUs s ≤ n := by
  obtain ⟨k, rfl⟩ : ∃ k, n = k + 1 := ⟨n - 1, by omega⟩
  have hbreak : u.latBreak = s.breakUs := by rw [startsFrame_eq_of_quiet hi hp h]; rfl
  have hmab : u.latMab = s.mabUs := by rw [startsFrame_eq_of_quiet hi hp h]; rfl
  have hr : noResetFor (k + 1) s = true := noResetFor_quiet (k + 1) hi hp
  have hS := slotUs_ge s.params
  rw [frameUs] at hn ⊢
  by_cases hdata : k < s.breakUs.toNat + s.mabUs.toNat
  · obtain ⟨t', ht', hline⟩ := frameTimelineOnTheLine s u k hs h hr (by rw [hbreak, hmab]; omega)
    obtain rfl := Host.Outcome.next.inj (ht'.symm.trans ht)
    have hbusy : t'.estate ≠ .idle := by
      rw [hbreak, hmab] at hline
      split_ifs at hline
      · obtain ⟨hestate, -⟩ := hline
        simp [hestate]
      · obtain ⟨hestate, -⟩ := hline
        simp [hestate]
    exact iff_of_false (fun hidle => hbusy hidle.1) (by omega)
  · obtain ⟨t', ht', hdataIff, hidle, hdry⟩ :=
      frameCompletesAtItsTick s u k hs h hr (by rw [hbreak, hmab]; omega) (by rw [hbreak, hmab]; omega)
    obtain rfl := Host.Outcome.next.inj (ht'.symm.trans ht)
    rw [hbreak, hmab] at hdataIff hdry
    rw [hdry]
    constructor
    · rintro ⟨-, hlast⟩
      omega
    · intro hlast
      have hpush : (512 - s.params.depth) * s.params.slotUs ≤ 512 * s.params.slotUs :=
        Nat.mul_le_mul_right _ (Nat.sub_le _ _)
      have hdone : t'.estate ≠ .data := fun hd => by
        obtain ⟨-, hbefore⟩ := hdataIff.1 hd
        omega
      exact ⟨hidle hdone, by omega⟩

/-- The first tick after a frame start. -/
theorem sinceStart_one (hlast : s.nowUs.toNat + 1 < 2 ^ 64) : SinceStart s 1 u := by
  have ⟨_, hstep, _⟩ := h
  have hready := idle_drained_iff_of_startsFrame hs h hi hp Nat.one_pos (frameUs_pos s) (runTicks_one hstep)
  obtain ⟨-, hok⟩ := (startsFrame_iff_of_quiet hi hp).1 ⟨u, h⟩
  have henabled : s.enabled = true := by
    simp only [startOk, Bool.and_eq_true] at hok
    obtain ⟨⟨henabled, -⟩, -⟩ := hok
    exact henabled
  obtain rfl := startsFrame_eq_of_quiet hi hp h
  exact {
    inputs := by simp [hi]
    pendingRst := hp
    enabled := henabled
    refreshHz := rfl
    nowUs := nextTick_toNat hlast
    lastStart := rfl
    lastStartValid := rfl
    idle_drained := hready }

/-- A tick before the period is over starts no frame and counts on. -/
theorem sinceStart_succ {n : Nat} {t : State} (hn : n < periodUs s) (hlast : s.nowUs.toNat + n + 1 < 2 ^ 64)
    (ht : runTicks n s = .next t) (hsince : SinceStart s n t) :
    ∃ v, runTicks (n + 1) s = .next v ∧ SinceStart s (n + 1) v := by
  have hstep := step_quiet hsince.inputs hsince.pendingRst
  have hrun := runTicks_append_step ht hstep
  have hno : ¬(t.estate = .idle ∧ startOk t = true) := by
    rw [← startsFrame_iff_of_quiet hsince.inputs hsince.pendingRst, hsince.startsFrame_iff]
    omega
  obtain ⟨hrecord, hvalid⟩ := sequencerStep_record_of_no_start (s := t.beginTick) hno
  have hready : t.beginTick.finishTick.estate = .idle ∧ drained t.beginTick.finishTick = true ↔
      frameUs s ≤ n + 1 := by
    by_cases hline : n + 1 ≤ frameUs s
    · exact idle_drained_iff_of_startsFrame hs h hi hp n.succ_pos hline hrun
    · obtain ⟨hidle, hdry⟩ := hsince.idle_drained.2 (by omega)
      have hno' : ¬startOk t.beginTick = true := fun hok => hno ⟨hidle, hok⟩
      exact iff_of_true (finishTick_idle_drained hidle hdry hno') (by omega)
  refine ⟨_, hrun, ?_⟩
  exact {
    inputs := by simp [hsince.inputs]
    pendingRst := by simp [hsince.pendingRst]
    enabled := by simp [hsince.enabled]
    refreshHz := by simp [hsince.refreshHz]
    nowUs := by
      rw [finishTick_nowUs, beginTick_nowUs, nextTick_toNat (by rw [hsince.nowUs]; exact hlast), hsince.nowUs]; omega
    lastStart := (finishTick_lastStart _).trans (hrecord.trans hsince.lastStart)
    lastStartValid := (finishTick_lastStartValid _).trans (hvalid.trans hsince.lastStartValid)
    idle_drained := hready }

/-- Every tick of the period, counted from the frame start. -/
theorem runTicks_sinceStart (hlast : s.nowUs.toNat + periodUs s < 2 ^ 64 - 1) {n : Nat} (hpos : 0 < n)
    (hn : n ≤ periodUs s) : ∃ t, runTicks n s = .next t ∧ SinceStart s n t := by
  have ⟨_, hstep, _⟩ := h
  induction n, hpos using Nat.le_induction with
  | base => exact ⟨u, runTicks_one hstep, sinceStart_one hs h hi hp (by omega)⟩
  | succ n hpos ih =>
    obtain ⟨t, ht, hsince⟩ := ih (by omega)
    exact sinceStart_succ hs h hi hp (by omega) (by omega) ht hsince

end

/-- Settles O40: within the period nothing but the elapsed ticks decides whether the next frame starts
(`SinceStart.startsFrame_iff`). -/
theorem framePeriodIsExact : Obligations.FramePeriodIsExact := by
  intro s u hs h hi hp hlast
  change s.nowUs.toNat + periodUs s < 2 ^ 64 - 1 at hlast
  constructor
  · have hpos : 0 < periodUs s := lt_max_of_lt_right (frameUs_pos s)
    obtain ⟨t, ht, hsince⟩ := runTicks_sinceStart hs h hi hp hlast hpos le_rfl
    obtain ⟨v, hv⟩ := hsince.startsFrame_iff.2 le_rfl
    exact ⟨t, v, ht, hv⟩
  · intro n t v hpos hn ht hv
    change n < periodUs s at hn
    obtain ⟨t', ht', hsince⟩ := runTicks_sinceStart hs h hi hp hlast hpos hn.le
    obtain rfl := Host.Outcome.next.inj (ht'.symm.trans ht)
    exact Nat.not_le.2 hn (hsince.startsFrame_iff.1 ⟨v, hv⟩)

end Sys2Proof.Machine
end
